-- ==== Sys2Proof/Word.lean ====
section
/-! DEFINITION. The word types of the block: a byte (00_scope.md R11) and a 32-bit command, response or CSR word
(30_encoding.md R90, R98). -/

namespace Sys2Proof

/-- A byte is 8 bits (R11). -/
abbrev Byte := BitVec 8

/-- A command word, a response word and a CSR are 32 bits (R90, R98, R33). -/
abbrev Word := BitVec 32

end Sys2Proof
end

