-- ==== Sys2Proof/Syntax.lean ====
section
/-! DEFINITION. The commands of AUDCORE-CMD v1: one constructor of `Instr` per row of spec/opcode_table.json, over the
enumerations of 00_scope.md R14 and the ports of 60_exceptions.md R330. -/

namespace Sys2Proof

/-- The three ports: P the producer (USB domain), K control, C the consumer (audio domain) (60_exceptions.md R330). -/
inductive Port where
  | producer
  | control
  | consumer
deriving DecidableEq, Repr

/-- Sample format (00_scope.md R14): NONE = 0, S16 = 1, S24 = 2, S32 = 3, F32 = 4. -/
inductive Fmt where
  | none
  | s16
  | s24
  | s32
  | f32
deriving DecidableEq, Repr

/-- Rate class (00_scope.md R14): NORMAL = 0, DOUBLE = 1. -/
inductive Rate where
  | normal
  | double
deriving DecidableEq, Repr

/-- The twelve commands of 30_encoding.md R92. A PUT carries the payload bytes `b[0..len-1]` of its transaction (R90). -/
inductive Instr where
  /-- NOP, opcode 0x0, ports P, K, C (46_csr_ops.md R290). -/
  | nop
  /-- PUT, opcode 0x1, port P (40_ring_buffer.md R124). -/
  | put (len : BitVec 16) (payload : List Byte)
  /-- SOF, opcode 0x2, port P (44_feedback.md R224). -/
  | sof
  /-- FB_DONE, opcode 0x3, port P (44_feedback.md R232). -/
  | fbDone
  /-- CONFIGURE, opcode 0x4, port K (45_pump_control.md R260). -/
  | configure (fmt : Fmt) (rate : Rate)
  /-- SET_MUTE, opcode 0x5, port K (45_pump_control.md R270). -/
  | setMute (mute : Bool)
  /-- SET_ATTEN, opcode 0x6, port K (45_pump_control.md R271). -/
  | setAtten (step : BitVec 8)
  /-- PUMP, opcode 0x7, port C (45_pump_control.md R252). -/
  | pump (half : BitVec 1)
  /-- OUT_DONE, opcode 0x8, port C (45_pump_control.md R256). -/
  | outDone
  /-- CSR_READ, opcode 0x9, port K (46_csr_ops.md R291). -/
  | csrRead (addr : BitVec 8)
  /-- SET_IE, opcode 0xA, port K (46_csr_ops.md R292). -/
  | setIe (mask : BitVec 9)
  /-- ACK, opcode 0xB, port K (46_csr_ops.md R293). -/
  | ack (mask : BitVec 8)
deriving DecidableEq, Repr

end Sys2Proof
end

