-- ==== Sys2Proof/WellFormed.lean ====
section
/-! DEFINITION. Which terms of `Instr` are commands. Every operand but PUT's payload is a field of exactly its width; a
PUT is one transaction with exactly `len` payload bytes (30_encoding.md R90). -/

namespace Sys2Proof

/-- A PUT carries exactly `len` payload bytes (30_encoding.md R90); every other command is a term of its fields alone. -/
def Instr.wellFormed : Instr → Bool
  | .put len payload => payload.length == len.toNat
  | .nop => true
  | .sof => true
  | .fbDone => true
  | .configure _ _ => true
  | .setMute _ => true
  | .setAtten _ => true
  | .pump _ => true
  | .outDone => true
  | .csrRead _ => true
  | .setIe _ => true
  | .ack _ => true

end Sys2Proof
end

