-- ==== Sys2Proof/Decode.lean ====
section
/-! DEFINITION. The decoder and the encoder of AUDCORE-CMD v1 (30_encoding.md R90 to R97, opcode_table.json), the ports
a command may be issued on (60_exceptions.md R330), and the numeric codes of 00_scope.md R14. -/

namespace Sys2Proof

/-- The numeric code of a format (00_scope.md R14). -/
def Fmt.code : Fmt → BitVec 3
  | .none => 0
  | .s16 => 1
  | .s24 => 2
  | .s32 => 3
  | .f32 => 4

/-- The format of a code; 5 to 7 are reserved (00_scope.md R14, 30_encoding.md R97). -/
def Fmt.ofCode? (v : BitVec 3) : Option Fmt :=
  match v.toNat with
  | 0 => some .none
  | 1 => some .s16
  | 2 => some .s24
  | 3 => some .s32
  | 4 => some .f32
  | _ => Option.none

/-- The numeric code of a rate class (00_scope.md R14). -/
def Rate.code : Rate → BitVec 1
  | .normal => 0
  | .double => 1

/-- The rate class of a code (00_scope.md R14). -/
def Rate.ofCode (v : BitVec 1) : Rate := if v = 0 then .normal else .double

/-- Why a word on a port is not a legal command (30_encoding.md R94), or why it is no transaction at all (R90). -/
inductive DecodeError where
  /-- Not a transaction: a PUT without exactly `len` payload bytes, or a payload after another command (R90). -/
  | unframed
  /-- Opcode 0xC to 0xF (R94 condition 1, R96). -/
  | reservedOpcode
  /-- A reserved bit is 1 (R91, R94 condition 2). -/
  | reservedBits
  /-- The port is not in the row's port column (R94 condition 3, R330). -/
  | wrongPort
  /-- CONFIGURE with format code 5, 6 or 7 (R94 condition 4, R97). -/
  | reservedFormat
deriving DecidableEq, Repr

/-- The opcode is `w[31:28]` (30_encoding.md R91). -/
def opcode (w : Word) : BitVec 4 := w.extractLsb' 28 4

/-- How many payload bytes follow a word: `len` for opcode 0x1, none otherwise; read from the opcode and the `len` field
alone (30_encoding.md R90). -/
def payloadLength (w : Word) : Nat :=
  if opcode w = 1 then (w.extractLsb' 0 16).toNat else 0

/-- Whether a list has exactly `n` entries. -/
def hasLength {α : Type} : List α → Nat → Bool
  | [], 0 => true
  | [], _ + 1 => false
  | _ :: _, 0 => false
  | _ :: as, n + 1 => hasLength as n

/-- Conditions 2 and 3 of 30_encoding.md R94 for a row whose operand fields are its `operandBits` low bits: every bit of
`w[27:operandBits]` is 0 and the port is in the row's port column. -/
def checkRow (operandBits : Nat) (ports : List Port) (p : Port) (w : Word) (i : Instr) : Except DecodeError Instr :=
  if (w.setWidth 28) >>> operandBits ≠ 0 then .error .reservedBits
  else if p ∈ ports then .ok i
  else .error .wrongPort

/-- The command that the transaction of word `w` and payload `payload` on port `p` is, or why it is none
(30_encoding.md R90 to R97). -/
def decode (p : Port) (w : Word) (payload : List Byte) : Except DecodeError Instr :=
  if hasLength payload (payloadLength w) = false then .error .unframed
  else
    match (opcode w).toNat with
    | 0x0 => checkRow 0 [.producer, .control, .consumer] p w .nop
    | 0x1 => checkRow 16 [.producer] p w (.put (w.extractLsb' 0 16) payload)
    | 0x2 => checkRow 0 [.producer] p w .sof
    | 0x3 => checkRow 0 [.producer] p w .fbDone
    | 0x4 =>
      match Fmt.ofCode? (w.extractLsb' 0 3) with
      | some f => checkRow 4 [.control] p w (.configure f (Rate.ofCode (w.extractLsb' 3 1)))
      | Option.none => .error .reservedFormat
    | 0x5 => checkRow 1 [.control] p w (.setMute (w.getLsbD 0))
    | 0x6 => checkRow 8 [.control] p w (.setAtten (w.extractLsb' 0 8))
    | 0x7 => checkRow 1 [.consumer] p w (.pump (w.extractLsb' 0 1))
    | 0x8 => checkRow 0 [.consumer] p w .outDone
    | 0x9 => checkRow 8 [.control] p w (.csrRead (w.extractLsb' 0 8))
    | 0xA => checkRow 9 [.control] p w (.setIe (w.extractLsb' 0 9))
    | 0xB => checkRow 8 [.control] p w (.ack (w.extractLsb' 0 8))
    | _ => .error .reservedOpcode

/-- The ports a command may be issued on (30_encoding.md R92, 60_exceptions.md R330). -/
def Instr.ports : Instr → List Port
  | .nop => [.producer, .control, .consumer]
  | .put _ _ => [.producer]
  | .sof => [.producer]
  | .fbDone => [.producer]
  | .configure _ _ => [.control]
  | .setMute _ => [.control]
  | .setAtten _ => [.control]
  | .pump _ => [.consumer]
  | .outDone => [.consumer]
  | .csrRead _ => [.control]
  | .setIe _ => [.control]
  | .ack _ => [.control]

/-- The command word of a command, from the patterns of 30_encoding.md R92. -/
def Instr.word : Instr → Word
  | .nop => 0x0#4 ++ 0#28
  | .put len _ => 0x1#4 ++ 0#12 ++ len
  | .sof => 0x2#4 ++ 0#28
  | .fbDone => 0x3#4 ++ 0#28
  | .configure f r => 0x4#4 ++ 0#24 ++ r.code ++ f.code
  | .setMute m => 0x5#4 ++ 0#27 ++ BitVec.ofBool m
  | .setAtten step => 0x6#4 ++ 0#20 ++ step
  | .pump half => 0x7#4 ++ 0#27 ++ half
  | .outDone => 0x8#4 ++ 0#28
  | .csrRead addr => 0x9#4 ++ 0#20 ++ addr
  | .setIe mask => 0xA#4 ++ 0#19 ++ mask
  | .ack mask => 0xB#4 ++ 0#20 ++ mask

/-- The payload bytes of a command: a PUT's, none otherwise (30_encoding.md R90). -/
def Instr.payloadBytes : Instr → List Byte
  | .put _ payload => payload
  | .nop => []
  | .sof => []
  | .fbDone => []
  | .configure _ _ => []
  | .setMute _ => []
  | .setAtten _ => []
  | .pump _ => []
  | .outDone => []
  | .csrRead _ => []
  | .setIe _ => []
  | .ack _ => []

/-- The encoder: a command's word and payload. -/
def encode (i : Instr) : Word × List Byte := (i.word, i.payloadBytes)

/-- One row of opcode_table.json: the fixed bits of a command's words and the ports that may issue it. -/
structure OpcodeRow where
  mnemonic : String
  pattern  : Word
  mask     : Word
  ports    : List Port
deriving DecidableEq, Repr

/-- opcode_table.json, row by row: the table the decoder is held against. `decode` does not read it. -/
def opcodeRows : List OpcodeRow := [
  { mnemonic := "NOP", pattern := 0x00000000#32, mask := 0xFFFFFFFF#32, ports := [.producer, .control, .consumer] },
  { mnemonic := "PUT", pattern := 0x10000000#32, mask := 0xFFFF0000#32, ports := [.producer] },
  { mnemonic := "SOF", pattern := 0x20000000#32, mask := 0xFFFFFFFF#32, ports := [.producer] },
  { mnemonic := "FB_DONE", pattern := 0x30000000#32, mask := 0xFFFFFFFF#32, ports := [.producer] },
  { mnemonic := "CONFIGURE", pattern := 0x40000000#32, mask := 0xFFFFFFF0#32, ports := [.control] },
  { mnemonic := "SET_MUTE", pattern := 0x50000000#32, mask := 0xFFFFFFFE#32, ports := [.control] },
  { mnemonic := "SET_ATTEN", pattern := 0x60000000#32, mask := 0xFFFFFF00#32, ports := [.control] },
  { mnemonic := "PUMP", pattern := 0x70000000#32, mask := 0xFFFFFFFE#32, ports := [.consumer] },
  { mnemonic := "OUT_DONE", pattern := 0x80000000#32, mask := 0xFFFFFFFF#32, ports := [.consumer] },
  { mnemonic := "CSR_READ", pattern := 0x90000000#32, mask := 0xFFFFFF00#32, ports := [.control] },
  { mnemonic := "SET_IE", pattern := 0xA0000000#32, mask := 0xFFFFFE00#32, ports := [.control] },
  { mnemonic := "ACK", pattern := 0xB0000000#32, mask := 0xFFFFFF00#32, ports := [.control] }]

/-- A word has every fixed bit of a row (30_encoding.md R92, R94). -/
def OpcodeRow.fits (row : OpcodeRow) (w : Word) : Bool := w &&& row.mask == row.pattern

/-- The mnemonic of a command in opcode_table.json. -/
def Instr.mnemonic : Instr → String
  | .nop => "NOP"
  | .put _ _ => "PUT"
  | .sof => "SOF"
  | .fbDone => "FB_DONE"
  | .configure _ _ => "CONFIGURE"
  | .setMute _ => "SET_MUTE"
  | .setAtten _ => "SET_ATTEN"
  | .pump _ => "PUMP"
  | .outDone => "OUT_DONE"
  | .csrRead _ => "CSR_READ"
  | .setIe _ => "SET_IE"
  | .ack _ => "ACK"

/-- The port column of opcode_table.json for the row of a word's opcode (the first port named; a reserved opcode has
none and gets the producer's). -/
def tablePort (w : Word) : Port :=
  match (opcode w).toNat with
  | 0x0 => .producer
  | 0x1 => .producer
  | 0x2 => .producer
  | 0x3 => .producer
  | 0x4 => .control
  | 0x5 => .control
  | 0x6 => .control
  | 0x7 => .consumer
  | 0x8 => .consumer
  | 0x9 => .control
  | 0xA => .control
  | 0xB => .control
  | _ => .producer

/-- A table word of `nbits` bits as a command word; every bit above `nbits` is 0. -/
def tableWord (nbits w : Nat) : Word := BitVec.ofNat 32 (w % 2 ^ nbits)

/-- The payload of a table word: as many bytes as the word asks for, all 0, since the table gives them no bits (log 10). -/
def tablePayload (w : Word) : List Byte := List.replicate (payloadLength w) 0

/-- The instruction the decoder reads from a word of opcode_table.json, on the row's port, with a payload of zeros. -/
def decodeTableWord (nbits w : Nat) : Option Instr :=
  match decode (tablePort (tableWord nbits w)) (tableWord nbits w) (tablePayload (tableWord nbits w)) with
  | .ok i => some i
  | .error _ => Option.none

end Sys2Proof
end

