-- ==== Sys2Proof/Config.lean ====
section
/-! DEFINITION. The configuration of the block: the parameters of 00_scope.md R7 and the platform parameter OUT_BASE
(20_memory.md R64) as one record of plain data, the reference profile, and the free values: what the spec leaves open
for every choice (93_implementation_defined.md, rows 1 to 3), as constants without a body. -/

namespace Sys2Proof

/-- The parameters that come in one copy per rate class (00_scope.md R7): the upsampling ratio `U_r`, the table
`COEF_r`, `NOM[r]`, `FB_MIN[r]`, `FB_MAX[r]` and the signed shift `FB_SHIFT[r]` (positive means left). -/
structure RateParams where
  u       : Nat
  coef    : List Int
  nom     : Nat
  fbMin   : Nat
  fbMax   : Nat
  fbShift : Int
deriving DecidableEq, Repr

/-- The configuration record (00_scope.md R7; `outBase` is OUT_BASE of 20_memory.md R64). It is fixed for the life of
the block (20_memory.md R81). `gain` lists `GAIN[0..ATTEN_MAX]`, `nsCoef` lists `NS_COEF[1..NS_ORDER]`. `maxBurst` is
host-side and used by no rule (70_reset_and_hazards.md R358). -/
structure Config where
  rbLog2    : Nat
  nch       : Nat
  outFrames : Nat
  normal    : RateParams
  double    : RateParams
  phaseLen  : Nat
  coefFrac  : Nat
  pwmBits   : Nat
  nsOrder   : Nat
  nsCoef    : List Int
  nsFrac    : Nat
  attenMax  : Nat
  gain      : List Nat
  sofShift  : Nat
  outBase   : Nat
  maxBurst  : Nat
deriving DecidableEq, Repr

/-- FREE VALUE: the choice behind the n-th view draw of 20_memory.md R71 (93_implementation_defined.md row 3); no body,
so a claim holds for every choice. Log 4. -/
opaque Config.viewDraw : Nat → Nat

/-- FREE VALUE: what ring slot `slot` holds before any PUT writes it, after the `resets`-th further power-on reset
(10_state.md R22, 93_implementation_defined.md row 1). Log 5. -/
opaque Config.unwrittenRingByte (resets slot : Nat) : Byte

/-- FREE VALUE: what the output-buffer byte at `addr` holds before any PUMP writes it, after the `resets`-th further
power-on reset (10_state.md R35, 93_implementation_defined.md row 2). Log 6. -/
opaque Config.unwrittenOutByte (resets addr : Nat) : Byte

/-- The reference profile of 00_scope.md R7 and R9. It gives no OUT_BASE and no MAX_BURST: 0 stands for both
(DESIGN CHOICE, log 2). -/
def Config.reference : Config where
  rbLog2    := 6
  nch       := 2
  outFrames := 4
  normal    := {
    u := 4, coef := [4096, 12288, 20480, 28672, 28672, 20480, 12288, 4096],
    nom := 786432, fbMin := 688128, fbMax := 884736, fbShift := 8 }
  double    := {
    u := 2, coef := [8192, 24576, 24576, 8192],
    nom := 1572864, fbMin := 1376256, fbMax := 1769472, fbShift := 9 }
  phaseLen  := 2
  coefFrac  := 15
  pwmBits   := 8
  nsOrder   := 3
  nsCoef    := [3, -3, 1]
  nsFrac    := 0
  attenMax  := 2
  gain      := [32768, 16384, 0]
  sofShift  := 3
  outBase   := 0
  maxBurst  := 0

end Sys2Proof
end

