-- ==== Sys2Proof/Machine/Arith.lean ====
section
/-! DEFINITION. The arithmetic primitives of 00_scope.md R12, on mathematical integers, and the crossings between those
integers and the registers that hold them. -/

namespace Sys2Proof.Machine

/-- `sext_N(v)`: `v` in `[0, 2^N)` read as an N-bit two's-complement value (R12). -/
def sext (n v : Nat) : Int := if v ≥ 2 ^ (n - 1) then (v : Int) - ((2 ^ n : Nat) : Int) else (v : Int)

/-- `clamp(v, lo, hi)` (R12). -/
def clamp (v lo hi : Int) : Int := if v < lo then lo else if v > hi then hi else v

/-- `sat_N(v)`, a signed saturation to N bits (R12). -/
def sat (n : Nat) (v : Int) : Int := clamp v (-((2 ^ (n - 1) : Nat) : Int)) (((2 ^ (n - 1) : Nat) : Int) - 1)

/-- `usat_N(v)`, an unsigned saturation to N bits (R12), of a value that is not negative. -/
def usat (n v : Nat) : Nat := if v > 2 ^ n - 1 then 2 ^ n - 1 else v

/-- `floor(v / 2^k)`, rounding toward minus infinity (R12). -/
def floorShift (v : Int) (k : Nat) : Int := v / ((2 ^ k : Nat) : Int)

/-- `(a - b) mod m`, the Euclidean remainder (R12): how far index `a` is ahead of index `b` on a ring of `m` slots. -/
def modDist (m a b : Nat) : Nat := (((a : Int) - (b : Int)) % (m : Int)).toNat

/-- An unsigned 32-bit register after `usat_32(r + n)` (00_scope.md R12, 60_exceptions.md R311). -/
def addSat32 (r : BitVec 32) (n : Nat) : BitVec 32 := BitVec.ofNat 32 (usat 32 (r.toNat + n))

/-- A signed 32-bit register holding the Q1.31 integer `x` (10_state.md R27, R28). -/
def toReg (x : Int) : BitVec 32 := BitVec.ofInt 32 x

/-- The integer of a 32-bit code read little-endian from a byte list (00_scope.md R11). -/
def littleEndian : List Byte → Nat
  | [] => 0
  | b :: bs => b.toNat + 256 * littleEndian bs

end Sys2Proof.Machine
end

