-- ==== Sys2Proof/Machine/Params.lean ====
section
/-! DEFINITION. The derived quantities of 00_scope.md R10 and the legality of a configuration (R8). -/

namespace Sys2Proof

/-- `BPS(f)`, bytes per sample (00_scope.md R10). -/
def Fmt.bytesPerSample : Fmt → Nat
  | .none => 0
  | .s16 => 2
  | .s24 => 3
  | .s32 => 4
  | .f32 => 4

/-- `FRAME_BYTES(f) = 2 * BPS(f)` (00_scope.md R10). -/
def Fmt.frameBytes (f : Fmt) : Nat := 2 * f.bytesPerSample

/-- `RBSIZE = 2^RB_LOG2` (00_scope.md R7). -/
def Config.rbSize (c : Config) : Nat := 2 ^ c.rbLog2

/-- The parameters of rate class `r`: `U(r)`, `COEF(r)`, `NOM[r]`, `FB_MIN[r]`, `FB_MAX[r]`, `FB_SHIFT[r]`
(00_scope.md R7, R10). -/
def Config.at (c : Config) : Rate → RateParams
  | .normal => c.normal
  | .double => c.double

/-- `FPP(r) = OUT_FRAMES / U(r)`, input frames per pump (00_scope.md R10). -/
def Config.framesPerPump (c : Config) (r : Rate) : Nat := c.outFrames / (c.at r).u

/-- `CHUNK(f, r) = FRAME_BYTES(f) * FPP(r)`, bytes per pump (00_scope.md R10). -/
def Config.chunk (c : Config) (f : Fmt) (r : Rate) : Nat := f.frameBytes * c.framesPerPump r

/-- `S = 32 - PWM_BITS`, the quantiser step shift (00_scope.md R10). -/
def Config.stepShift (c : Config) : Nat := 32 - c.pwmBits

/-- `QMAX = 2^(PWM_BITS-1) - 1` (00_scope.md R10). -/
def Config.qMax (c : Config) : Int := ((2 ^ (c.pwmBits - 1) : Nat) : Int) - 1

/-- `MID = 2^(PWM_BITS-1)` (00_scope.md R10). -/
def Config.mid (c : Config) : Int := ((2 ^ (c.pwmBits - 1) : Nat) : Int)

/-- `FB_D = RBSIZE << SOF_SHIFT` (00_scope.md R10). -/
def Config.fbD (c : Config) : Nat := c.rbSize * 2 ^ c.sofShift

/-- `sh_r(v)`: `v << FB_SHIFT[r]` if `FB_SHIFT[r] >= 0`, else `floor(v / 2^(-FB_SHIFT[r]))` (00_scope.md R10). -/
def Config.fbScale (c : Config) (r : Rate) (v : Nat) : Int :=
  if 0 ≤ (c.at r).fbShift then ((v * 2 ^ (c.at r).fbShift.toNat : Nat) : Int)
  else Machine.floorShift v (-(c.at r).fbShift).toNat

/-- `HALF[r] = floor(sh_r(FB_D) / 2)` (00_scope.md R10). -/
def Config.half (c : Config) (r : Rate) : Int := Machine.floorShift (c.fbScale r c.fbD) 1

/-- `HALF_BYTES = OUT_FRAMES*NCH*2`, the bytes of one output half (20_memory.md R64). -/
def Config.halfBytes (c : Config) : Nat := c.outFrames * c.nch * 2

/-- The byte address of `out[h][i]` (20_memory.md R64). -/
def Config.outAddr (c : Config) (h i : Nat) : Nat := c.outBase + h * c.halfBytes + i * 2

/-- An entry of a coefficient table lies in `[-2^31, 2^31-1]` (00_scope.md R8). -/
def inRange32 (x : Int) : Bool := decide (-2147483648 ≤ x) && decide (x ≤ 2147483647)

/-- The constraints of 00_scope.md R8 on one rate class: the ratio, the table, the feedback bounds, and the ring holding
two chunks of every streaming format. -/
def Config.legalRate (c : Config) (r : Rate) : Bool :=
  decide (
    1 ≤ (c.at r).u ∧ (c.at r).u ≤ 255 ∧ c.outFrames % (c.at r).u = 0 ∧
    (c.at r).coef.length = (c.at r).u * c.phaseLen ∧ (c.at r).coef.all inRange32 = true ∧
    (c.at r).fbMin ≤ (c.at r).nom ∧ (c.at r).nom ≤ (c.at r).fbMax ∧ (c.at r).fbMax ≤ 2 ^ 24 - 1 ∧
    -31 ≤ (c.at r).fbShift ∧ (c.at r).fbShift ≤ 31 ∧
    2 * c.chunk .s16 r ≤ c.rbSize ∧ 2 * c.chunk .s24 r ≤ c.rbSize ∧
    2 * c.chunk .s32 r ≤ c.rbSize ∧ 2 * c.chunk .f32 r ≤ c.rbSize)

/-- `GAIN[s] >= GAIN[s+1]` for every s (00_scope.md R8). -/
def nonIncreasing : List Nat → Bool
  | [] => true
  | [_] => true
  | a :: b :: rest => decide (b ≤ a) && nonIncreasing (b :: rest)

/-- The gain table's constraints (00_scope.md R8). -/
def Config.legalGain (c : Config) : Bool :=
  decide (
    1 ≤ c.attenMax ∧ c.attenMax ≤ 255 ∧ c.gain.length = c.attenMax + 1 ∧
    c.gain.all (fun g => decide (g ≤ 32768)) = true ∧
    c.gain[0]? = some 32768 ∧ c.gain[c.attenMax]? = some 0 ∧ nonIncreasing c.gain = true)

/-- A configuration is legal only if every constraint of 00_scope.md R8 holds. -/
def Config.legal (c : Config) : Bool :=
  decide (
    1 ≤ c.rbLog2 ∧ c.rbLog2 ≤ 16 ∧ (c.nch = 2 ∨ c.nch = 3) ∧
    1 ≤ c.outFrames ∧ c.outFrames ≤ 65535 ∧ 1 ≤ c.phaseLen ∧ c.phaseLen ≤ 65535 ∧ c.coefFrac ≤ 31 ∧
    2 ≤ c.pwmBits ∧ c.pwmBits ≤ 16 ∧
    3 ≤ c.nsOrder ∧ c.nsOrder ≤ 5 ∧ c.nsCoef.length = c.nsOrder ∧ c.nsCoef.all inRange32 = true ∧ c.nsFrac ≤ 31 ∧
    c.legalGain = true ∧ c.sofShift ≤ 15 ∧ c.legalRate .normal = true ∧ c.legalRate .double = true)

/-- Each coefficient table is symmetric (00_scope.md R9): a property of the parameter that no rule depends on. -/
def Config.symmetricFilter (c : Config) (r : Rate) : Bool :=
  (List.range (c.at r).coef.length).all fun k =>
    (c.at r).coef[k]? == (c.at r).coef[(c.at r).coef.length - 1 - k]?

/-- The ring absorbs one worst-case packet (70_reset_and_hazards.md R358): a host-side relation the block cannot check
and no rule uses. -/
def Config.ringHoldsBurst (c : Config) : Bool := decide (c.maxBurst ≤ c.rbSize - 1)

end Sys2Proof
end

