-- ==== Sys2Proof/Machine/State.lean ====
section
/-! DEFINITION. The state of the block (10_state.md), the events (60_exceptions.md R310), what comes in from and goes out
to the outside world, and the state after reset (70_reset_and_hazards.md R340). Plain data throughout. -/

namespace Sys2Proof.Machine

/-- Pump state (00_scope.md R14): CLOSED = 0, FILL = 1, RUNNING = 2, DRAIN = 3. -/
inductive PumpState where
  | closed
  | fill
  | running
  | drain
deriving DecidableEq, Repr

/-- The error and status events that can be raised, in the order of their codes 0 to 7 (60_exceptions.md R310). FBRDY
(code 8) is the level `fb_ready`, not an event. -/
inductive Event where
  | underrun
  | overflow
  | malformed
  | sat
  | fblost
  | illegal
  | cfgrej
  | statechg
deriving DecidableEq, Repr

/-- A memory of bytes by address: (address, byte) pairs, addresses strictly rising, nothing listed for a byte that was
never written. -/
abbrev Memory := List Host.Cell

/-- One transaction as a port issues it: a command word, and for PUT its payload (30_encoding.md R90). -/
structure Txn where
  port    : Port
  word    : Word
  payload : List Byte
deriving DecidableEq, Repr

/-- What the outside world does to the block: issue a transaction on a port, or assert power-on reset
(70_reset_and_hazards.md R342). -/
inductive Input where
  | command (t : Txn)
  | powerOnReset
deriving DecidableEq, Repr

/-- What a transaction gives out besides the level outputs: a response on the issuing port (30_encoding.md R98), or a
feedback report (44_feedback.md R231). -/
inductive Output where
  | response (port : Port) (value : Word)
  | fbSend (b0 b1 b2 : Byte)
deriving DecidableEq, Repr

/-- The block never stops with a fault: no trap exists and every error is an event handled in place (60_exceptions.md
R316). Nothing raises a fault, so the type has no value. -/
inductive Fault where
deriving DecidableEq, Repr

/-- Why the model gives a step no meaning. -/
inductive Refusal where
  /-- Raised by `exec` for an instruction without a meaning: no arm does so. Safe. -/
  | notModelled (mnemonic : String)
  /-- Raised by `step` when the configuration breaks 00_scope.md R8: "A model refuses an illegal configuration and gives
  it no meaning." Safe. -/
  | illegalConfiguration
  /-- Raised by `step` when the next input is no transaction: a PUT word without exactly its `len` payload bytes, or a
  payload after another word, which 30_encoding.md R90 rules out. Safe. -/
  | unframedTransaction
deriving DecidableEq, Repr

/-- The state σ (10_state.md), the configuration it runs under (`cfg`, log 1), and the model's own fields: the inputs to
come (`input`, log 3), the outputs given so far (`outputs`, log 8), how many view draws were taken (`draws`, log 4) and
how many further power-on resets (`resets`, log 9). -/
structure State where
  /-- The configuration (00_scope.md R7), fixed for the life of the block (20_memory.md R81). -/
  cfg          : Config
  /-- `mem`, the ring storage, by slot (R22). -/
  mem          : Memory
  /-- `head`, the slot the next accepted byte goes to (R23). -/
  head         : Nat
  /-- `tail`, the slot of the oldest unconsumed byte (R24). -/
  tail         : Nat
  /-- `tail_pv`, the producer domain's view of `tail` (R25). -/
  tailPv       : Nat
  /-- `head_cv`, the consumer domain's view of `head` (R25). -/
  headCv       : Nat
  /-- `fmt` of the format descriptor (R26). -/
  fmt          : Fmt
  /-- `rate` of the format descriptor (R26). -/
  rate         : Rate
  /-- `bl[c][j]` at row c, place j - 1 (R27). -/
  bl           : List (List (BitVec 32))
  /-- `nse[c][k]` at row c, place k - 1 (R28). -/
  nse          : List (List (BitVec 32))
  /-- `mute` (R29). -/
  mute         : Bool
  /-- `atten` (R29). -/
  atten        : Nat
  /-- `pst` (R30). -/
  pst          : PumpState
  /-- `filled`, bit h for half h (R30). -/
  filled       : BitVec 2
  /-- `out_en`, also a level output (R30, R36). -/
  outEn        : Bool
  /-- `delta`, the feedback accumulator (R31). -/
  delta        : BitVec 32
  /-- `sofcnt` (R31). -/
  sofcnt       : Nat
  /-- `fb_value`, Q10.14 (R31). -/
  fbValue      : BitVec 24
  /-- `fb_ready` (R31). -/
  fbReady      : Bool
  /-- `ep_free` (R31). -/
  epFree       : Bool
  /-- `pend[0..7]` (R32). -/
  pend         : BitVec 8
  /-- `ie[0..8]` (R32). -/
  ie           : BitVec 9
  /-- `cnt_overflow` (R32). -/
  cntOverflow  : BitVec 32
  /-- `cnt_underrun` (R32). -/
  cntUnderrun  : BitVec 32
  /-- `cnt_malformed` (R32). -/
  cntMalformed : BitVec 32
  /-- `cnt_sat` (R32). -/
  cntSat       : BitVec 32
  /-- `cnt_fblost` (R32). -/
  cntFblost    : BitVec 32
  /-- `out[h][i]`, the output buffer, by byte address (R35, 20_memory.md R64). -/
  outBuf       : Memory
  /-- MODEL: the inputs not yet taken, in execution order (20_memory.md R70). -/
  input        : List Input
  /-- MODEL: the responses and feedback reports given so far, oldest first. -/
  outputs      : List Output
  /-- MODEL: how many view draws were taken. -/
  draws        : Nat
  /-- MODEL: how many further power-on resets were taken. -/
  resets       : Nat
deriving DecidableEq, Repr

/-- A table of `rows` by `cols` registers holding 0. -/
def zeroRows (rows cols : Nat) : List (List (BitVec 32)) := List.replicate rows (List.replicate cols 0)

/-- The state right after power-on reset under configuration `c` (70_reset_and_hazards.md R340). The model's own fields
start empty and at 0 (DESIGN CHOICE, logs 3, 4, 8 and 9). -/
def State.resetOf (c : Config) : State where
  cfg          := c
  mem          := []
  head         := 0
  tail         := 0
  tailPv       := 0
  headCv       := 0
  fmt          := .none
  rate         := .normal
  bl           := zeroRows c.nch (c.phaseLen - 1)
  nse          := zeroRows c.nch c.nsOrder
  mute         := false
  atten        := 0
  pst          := .closed
  filled       := 0
  outEn        := false
  delta        := 0
  sofcnt       := 0
  fbValue      := BitVec.ofNat 24 c.normal.nom
  fbReady      := false
  epFree       := true
  pend         := 0
  ie           := 0
  cntOverflow  := 0
  cntUnderrun  := 0
  cntMalformed := 0
  cntSat       := 0
  cntFblost    := 0
  outBuf       := []
  input        := []
  outputs      := []
  draws        := 0
  resets       := 0

/-- The machine right after reset, under the reference profile of 00_scope.md R7 (DESIGN CHOICE, log 2). -/
def State.reset : State := State.resetOf Config.reference

end Sys2Proof.Machine
end

