-- ==== Sys2Proof/Machine/Flags.lean ====
section
/-! DEFINITION. The flags: event codes and their pending bits, the interrupt-request level (60_exceptions.md R310,
R313), and the `filled` bits (10_state.md R30). -/

namespace Sys2Proof.Machine

/-- The code of an event, its bit index in `pend`, `ie` and the masks (60_exceptions.md R310). -/
def Event.code : Event → Nat
  | .underrun => 0
  | .overflow => 1
  | .malformed => 2
  | .sat => 3
  | .fblost => 4
  | .illegal => 5
  | .cfgrej => 6
  | .statechg => 7

/-- The pending bit of an event (60_exceptions.md R310). -/
def Event.bit (e : Event) : BitVec 8 := 1#8 <<< e.code

/-- The numeric code of a pump state (00_scope.md R14). -/
def PumpState.code : PumpState → BitVec 2
  | .closed => 0
  | .fill => 1
  | .running => 2
  | .drain => 3

/-- The counter register of event `own` after a raise of `e`: `usat_32(cnt + n)` when they are the same event, with
`n = info` for SAT (the clamp count) and 1 otherwise (60_exceptions.md R311, R312); unchanged when they are not. -/
def counterAfter (e own : Event) (info : Nat) (cnt : BitVec 32) : BitVec 32 :=
  if e = own then addSat32 cnt (if e = .sat then info else 1) else cnt

/-- The PEND register's nine bits: `pend`, and the level `fb_ready` mirrored as bit 8 (10_state.md R33). -/
def State.pending (s : State) : BitVec 9 := BitVec.ofBool s.fbReady ++ s.pend

/-- The interrupt-request level (60_exceptions.md R313): an enabled pending bit, or `fb_ready` enabled by `ie[8]`. -/
def State.irq (s : State) : Bool := s.pending &&& s.ie != 0

/-- The `filled` bits once half `h` has been written (10_state.md R30). -/
def markFilled (filled : BitVec 2) (h : BitVec 1) : BitVec 2 := filled ||| (1#2 <<< h.toNat)

end Sys2Proof.Machine
end

