-- ==== Sys2Proof/Machine/Operands.lean ====
section
/-! DEFINITION. The data operands: wire samples and frames (30_encoding.md R100, 41_reframer.md R150 to R155), the bytes
of a feedback report (20_memory.md R62), and the response word of a PUT (30_encoding.md R98). Command operands are plain
unsigned fields, read in `decode` (R93). -/

namespace Sys2Proof.Machine

/-- The magnitude of a finite binary32 value times `2^31`, truncated (41_reframer.md R153, R154): `M * 2^e` with
`(M, e) = (F, -149)` if `E = 0`, else `(2^23 + F, E - 150)`, shifted by `e + 31`. -/
def f32Magnitude (expo frac : Nat) : Nat :=
  let m := if expo = 0 then frac else 2 ^ 23 + frac
  let sh : Int := if expo = 0 then -118 else (expo : Int) - 119
  if 0 ≤ sh then m * 2 ^ sh.toNat else m / 2 ^ (-sh).toNat

/-- `F32ToQ31(u)` (41_reframer.md R153, R154): `sgn = u[31]`, `E = u[30:23]`, `F = u[22:0]`. -/
def f32ToQ31 (u : Nat) : Int :=
  let sgn := u / 2 ^ 31 % 2
  let expo := u / 2 ^ 23 % 2 ^ 8
  let frac := u % 2 ^ 23
  if expo = 255 ∧ frac ≠ 0 then 0
  else if expo = 255 ∧ sgn = 0 then 2147483647
  else if expo = 255 then -2147483648
  else sat 32 ((if sgn = 1 then (-1 : Int) else 1) * (f32Magnitude expo frac : Int))

/-- `DecodeSample(fmt, b)`: the internal Q1.31 sample of one wire sample, its bytes in ring order (41_reframer.md R151).
NONE has no samples (R156). -/
def decodeSample (f : Fmt) (b : List Byte) : Int :=
  match f with
  | .none => 0
  | .s16 => sext 16 (littleEndian b) * 65536
  | .s24 => sext 24 (littleEndian b) * 256
  | .s32 => sext 32 (littleEndian b)
  | .f32 => f32ToQ31 (littleEndian b)

/-- A frame's left and right samples: left in the first `BPS` bytes, right in the next (41_reframer.md R152, R155). -/
def decodeFrame (f : Fmt) (bytes : List Byte) : Int × Int :=
  (decodeSample f (bytes.take f.bytesPerSample),
   decodeSample f ((bytes.drop f.bytesPerSample).take f.bytesPerSample))

/-- `Reframe(fmt, B)`: `floor(length(B) / FRAME_BYTES)` frames, the remainder ignored, none for NONE (41_reframer.md
R155, R156). -/
def reframe (f : Fmt) (bytes : List Byte) : List (Int × Int) :=
  if f = .none then []
  else (List.range (bytes.length / f.frameBytes)).map fun i => decodeFrame f (bytes.drop (i * f.frameBytes))

/-- Byte `i` of a feedback value, least significant first (20_memory.md R62). -/
def reportByte (v : BitVec 24) (i : Nat) : Byte := v.extractLsb' (8 * i) 8

/-- The response word of a legal PUT: `accepted ++ 0[14:0] ++ space[15:0]` (30_encoding.md R98). -/
def putResponse (accepted : Bool) (space : Nat) : Word := BitVec.ofBool accepted ++ 0#15 ++ BitVec.ofNat 16 space

end Sys2Proof.Machine
end

