-- ==== Sys2Proof/Machine/Ops.lean ====
section
/-! DEFINITION. The named operations over memory and registers that the meanings share: bytes of memory, the ring and its
views, raising an event and clearing pending bits, responding, the stream set-up and the entry into CLOSED. -/

namespace Sys2Proof.Machine

/-! ## Bytes by address -/

/-- The byte listed at an address, if one was ever written there. -/
def Memory.read? : Memory → Nat → Option Byte
  | [], _ => none
  | (k, v) :: rest, a => if a = k then some v else Memory.read? rest a

/-- Write one byte, keeping the addresses strictly rising. -/
def Memory.write : Memory → Nat → Byte → Memory
  | [], a, b => [(a, b)]
  | (k, v) :: rest, a, b =>
    if a < k then (a, b) :: (k, v) :: rest
    else if a = k then (a, b) :: rest
    else (k, v) :: Memory.write rest a b

/-- The canonical form: addresses strictly rising. An unlisted address reads as no value, so no entry equals it. -/
def Memory.wf : Memory → Bool
  | [] => true
  | [_] => true
  | (k, _) :: (k', v') :: rest => decide (k < k') && Memory.wf ((k', v') :: rest)

/-- Every listed address is below `bound`. -/
def Memory.below (m : Memory) (bound : Nat) : Bool := m.all fun cell => decide (cell.1 < bound)

/-- Every listed address is at least `bound`. -/
def Memory.atLeast (m : Memory) (bound : Nat) : Bool := m.all fun cell => decide (bound ≤ cell.1)

/-! ## The ring (40_ring_buffer.md R120 to R123) -/

/-- `RingRead(i)` is `mem[i mod RBSIZE]` (00_scope.md R13); a slot no PUT has written holds a free byte (log 5). -/
def State.ringRead (s : State) (i : Nat) : Byte :=
  match Memory.read? s.mem (i % s.cfg.rbSize) with
  | some b => b
  | none => Config.unwrittenRingByte s.resets (i % s.cfg.rbSize)

/-- `RingWrite(start + i, b[i])` for the bytes of a list in order, on a ring of `size` slots (00_scope.md R13). -/
def ringWrites (size : Nat) : Memory → Nat → List Byte → Memory
  | m, _, [] => m
  | m, start, b :: bs => ringWrites size (Memory.write m (start % size) b) (start + 1) bs

/-- The `n` bytes from `tail` in logical order, wrapping at RBSIZE (40_ring_buffer.md R123, 20_memory.md R66). -/
def State.ringBytes (s : State) (n : Nat) : List Byte := (List.range n).map fun i => s.ringRead (s.tail + i)

/-- The exact `count = (head - tail) mod RBSIZE` (40_ring_buffer.md R120). -/
def State.count (s : State) : Nat := modDist s.cfg.rbSize s.head s.tail

/-- The exact `space = RBSIZE - 1 - count` (40_ring_buffer.md R120). -/
def State.space (s : State) : Nat := s.cfg.rbSize - 1 - s.count

/-- The producer's space, from its view of `tail` (40_ring_buffer.md R121). -/
def State.spaceP (s : State) : Nat := s.cfg.rbSize - 1 - modDist s.cfg.rbSize s.head s.tailPv

/-- The consumer's count, from its view of `head` (40_ring_buffer.md R121). -/
def State.countC (s : State) : Nat := modDist s.cfg.rbSize s.headCv s.tail

/-- How far the producer's view lags `tail`: the bound of PUT's draw (20_memory.md R71). -/
def State.lagP (s : State) : Nat := modDist s.cfg.rbSize s.tail s.tailPv

/-- How far the consumer's view lags `head`: the bound of PUMP's draw (20_memory.md R71). -/
def State.lagC (s : State) : Nat := modDist s.cfg.rbSize s.head s.headCv

/-- `draw k in [0, lag]` (00_scope.md R13, 20_memory.md R71): with no lag there is one choice, 0; otherwise the choice is
the free value `Config.viewDraw` at this draw's number, brought into the range (log 4). -/
def drawView (lag n : Nat) : Nat :=
  match lag with
  | 0 => 0
  | l + 1 => Config.viewDraw n % (l + 2)

/-- The producer's snapshot with draw `k`: `tail_pv` advances by `k` toward `tail` (20_memory.md R71). -/
def refreshTailPv (k : Nat) (s : State) : State :=
  { s with tailPv := (s.tailPv + k) % s.cfg.rbSize, draws := s.draws + 1 }

/-- The consumer's snapshot with draw `k`: `head_cv` advances by `k` toward `head` (20_memory.md R71). -/
def refreshHeadCv (k : Nat) (s : State) : State :=
  { s with headCv := (s.headCv + k) % s.cfg.rbSize, draws := s.draws + 1 }

/-! ## Events, responses and reports -/

/-- `raise E(info)` (60_exceptions.md R311), the block's one way of taking an exception: set the pending bit and add to
the event's counter, `info` for SAT and 1 otherwise. It saves nothing, changes no mode and does not end the transaction
(R316); `info` is not stored (log 14). -/
def raise (e : Event) (info : Nat) (s : State) : State :=
  { s with
    pend := s.pend ||| e.bit
    cntUnderrun := counterAfter e .underrun info s.cntUnderrun
    cntOverflow := counterAfter e .overflow info s.cntOverflow
    cntMalformed := counterAfter e .malformed info s.cntMalformed
    cntSat := counterAfter e .sat info s.cntSat
    cntFblost := counterAfter e .fblost info s.cntFblost }

/-- Clear the pending bits a mask names: the only "return" from an event (60_exceptions.md R317, 46_csr_ops.md R293). -/
def clearPending (mask : BitVec 8) (s : State) : State := { s with pend := s.pend &&& ~~~mask }

/-- `respond(v)` on the issuing port (00_scope.md R13, 30_encoding.md R98). -/
def respond (p : Port) (v : Word) (s : State) : State := { s with outputs := s.outputs ++ [.response p v] }

/-- `TrySend()` (44_feedback.md R230, R231): send the waiting value when the endpoint is free. -/
def trySend (s : State) : State :=
  if s.fbReady = true ∧ s.epFree = true then
    { s with
      outputs := s.outputs ++ [.fbSend (reportByte s.fbValue 0) (reportByte s.fbValue 1) (reportByte s.fbValue 2)]
      fbReady := false
      epFree := false }
  else s

/-! ## Stream control -/

/-- `EnterClosed` (45_pump_control.md R251). -/
def enterClosed (s : State) : State := { s with pst := .closed, fmt := .none, filled := 0, outEn := false }

/-- `SetUp(f, r)` (45_pump_control.md R262): the ring empty, the filter and shaper state zero, the feedback controller
restarted; memory, gain, `ep_free`, `out_en`, events and the output buffer kept. -/
def setUp (f : Fmt) (r : Rate) (s : State) : State :=
  { s with
    fmt := f
    rate := r
    head := 0
    tail := 0
    tailPv := 0
    headCv := 0
    bl := zeroRows s.cfg.nch (s.cfg.phaseLen - 1)
    nse := zeroRows s.cfg.nch s.cfg.nsOrder
    filled := 0
    delta := 0
    sofcnt := 0
    fbReady := false
    fbValue := BitVec.ofNat 24 (s.cfg.at r).nom }

/-- What an illegal command does (30_encoding.md R94): raise ILLEGAL and nothing else; a PUT or CSR_READ opcode also
responds 0 on the issuing port (R98). -/
def illegalCommand (t : Txn) (s : State) : State :=
  if (opcode t.word).toNat = 1 ∨ (opcode t.word).toNat = 9 then
    respond t.port 0 (raise .illegal t.word.toNat s)
  else raise .illegal t.word.toNat s

/-- Power-on reset during operation (70_reset_and_hazards.md R340, R342): the state of R340 under the same configuration.
What the environment has still to send and what was sent to it are not state of the block and stay (log 9). -/
def powerOn (s : State) : State :=
  { State.resetOf s.cfg with
    input := s.input, outputs := s.outputs, draws := s.draws, resets := s.resets + 1 }

/-! ## The output buffer (20_memory.md R63, R64) -/

/-- One byte of the output buffer; a byte no PUMP has written holds a free byte (log 6). -/
def State.outRead (s : State) (a : Nat) : Byte :=
  match Memory.read? s.outBuf a with
  | some b => b
  | none => Config.unwrittenOutByte s.resets a

/-- The element `out[h][i]`, a little-endian halfword (20_memory.md R63, R64). -/
def State.outElem (s : State) (h i : Nat) : BitVec 16 :=
  s.outRead (s.cfg.outAddr h i + 1) ++ s.outRead (s.cfg.outAddr h i)

/-- `MemWrite(addr, 2, v)`: `v[7:0]` at `addr`, `v[15:8]` at `addr + 1` (20_memory.md R64). -/
def memWrite2 (m : Memory) (a : Nat) (v : BitVec 16) : Memory :=
  Memory.write (Memory.write m a (v.extractLsb' 0 8)) (a + 1) (v.extractLsb' 8 8)

/-- Write codes as consecutive halfwords from an address on, each zero-extended to 16 bits (20_memory.md R63). -/
def writeCodes : Memory → Nat → List Int → Memory
  | m, _, [] => m
  | m, a, q :: qs => writeCodes (memWrite2 m a (BitVec.ofInt 16 q)) (a + 2) qs

end Sys2Proof.Machine
end

