-- ==== Sys2Proof/Machine/Control.lean ====
section
/-! DEFINITION. The control port's stream and gain commands: CONFIGURE, SET_MUTE and SET_ATTEN (45_pump_control.md R260
to R271). -/

namespace Sys2Proof.Machine

/-- CONFIGURE with a streaming format (45_pump_control.md R260, R263, R264): refused with CFGREJ while a stream plays, a
set-up into FILL otherwise, with STATECHG when it comes from CLOSED. -/
def configureStream (f : Fmt) (r : Rate) (s : State) : State :=
  match s.pst with
  | .closed => raise .statechg 0 { setUp f r s with pst := .fill }
  | .fill => { setUp f r s with pst := .fill }
  | .running => raise .cfgrej (f.code.toNat + 8 * r.code.toNat) s
  | .drain => raise .cfgrej (f.code.toNat + 8 * r.code.toNat) s

/-- CONFIGURE NONE (45_pump_control.md R261): FILL enters CLOSED, RUNNING enters DRAIN, CLOSED and DRAIN ignore it. -/
def configureStop (s : State) : State :=
  match s.pst with
  | .closed => s
  | .fill => raise .statechg 0 (enterClosed s)
  | .running => raise .statechg 0 { s with pst := .drain }
  | .drain => s

/-- CONFIGURE (45_pump_control.md R260); the rate is ignored for NONE (30_encoding.md R97). -/
def execConfigure (f : Fmt) (r : Rate) (s : State) : Host.Outcome State Fault Refusal :=
  if f = .none then .next (configureStop s) else .next (configureStream f r s)

/-- SET_MUTE (45_pump_control.md R270). -/
def execSetMute (m : Bool) (s : State) : Host.Outcome State Fault Refusal := .next { s with mute := m }

/-- SET_ATTEN (45_pump_control.md R271): a step above ATTEN_MAX is clamped to it. -/
def execSetAtten (step : BitVec 8) (s : State) : Host.Outcome State Fault Refusal :=
  .next { s with atten := min step.toNat s.cfg.attenMax }

end Sys2Proof.Machine
end

