-- ==== Sys2Proof/Machine/Csr.lean ====
section
/-! DEFINITION. NOP, CSR_READ, SET_IE and ACK, and the CSR map (46_csr_ops.md R290 to R294, 10_state.md R33, R34). -/

namespace Sys2Proof.Machine

/-- PARAM0: `[4:0] RB_LOG2; [8:5] SOF_SHIFT; [13:9] PWM_BITS; [16:14] NS_ORDER; [18:17] NCH` (10_state.md R33). -/
def csrParam0 (c : Config) : Word :=
  0#13 ++ BitVec.ofNat 2 c.nch ++ BitVec.ofNat 3 c.nsOrder ++ BitVec.ofNat 5 c.pwmBits ++ BitVec.ofNat 4 c.sofShift
    ++ BitVec.ofNat 5 c.rbLog2

/-- PARAM1: `[7:0] U_N; [15:8] U_D; [31:16] P` (10_state.md R33). -/
def csrParam1 (c : Config) : Word :=
  BitVec.ofNat 16 c.phaseLen ++ BitVec.ofNat 8 c.double.u ++ BitVec.ofNat 8 c.normal.u

/-- PARAM2: `[15:0] OUT_FRAMES; [23:16] ATTEN_MAX` (10_state.md R33). -/
def csrParam2 (c : Config) : Word := 0#8 ++ BitVec.ofNat 8 c.attenMax ++ BitVec.ofNat 16 c.outFrames

/-- STATUS: `[1:0] pst; [3:2] filled; [4] out_en; [5] fb_ready; [6] ep_free; [7] irq` (10_state.md R33). -/
def State.csrStatus (s : State) : Word :=
  0#24 ++ BitVec.ofBool s.irq ++ BitVec.ofBool s.epFree ++ BitVec.ofBool s.fbReady ++ BitVec.ofBool s.outEn
    ++ s.filled ++ s.pst.code

/-- `CsrValue(σ, a)` at a mapped address, nothing at a reserved one (46_csr_ops.md R294, 10_state.md R33). -/
def State.csrValue? (s : State) (a : BitVec 8) : Option Word :=
  match a.toNat with
  | 0x00 => some 1
  | 0x01 => some (csrParam0 s.cfg)
  | 0x02 => some (csrParam1 s.cfg)
  | 0x03 => some (csrParam2 s.cfg)
  | 0x04 => some s.csrStatus
  | 0x05 => some (0#28 ++ s.rate.code ++ s.fmt.code)
  | 0x06 => some (0#16 ++ BitVec.ofNat 8 s.atten ++ 0#7 ++ BitVec.ofBool s.mute)
  | 0x07 => some (BitVec.ofNat 16 s.tail ++ BitVec.ofNat 16 s.head)
  | 0x08 => some (BitVec.ofNat 16 s.space ++ BitVec.ofNat 16 s.count)
  | 0x09 => some (0#8 ++ s.fbValue)
  | 0x0A => some s.delta
  | 0x0B => some (0#16 ++ BitVec.ofNat 16 s.sofcnt)
  | 0x0C => some (0#23 ++ s.pending)
  | 0x0D => some (0#23 ++ s.ie)
  | 0x10 => some s.cntOverflow
  | 0x11 => some s.cntUnderrun
  | 0x12 => some s.cntMalformed
  | 0x13 => some s.cntSat
  | 0x14 => some s.cntFblost
  | _ => none

/-- NOP (46_csr_ops.md R290). -/
def execNop (s : State) : Host.Outcome State Fault Refusal := .next s

/-- CSR_READ (46_csr_ops.md R291): respond with the value, or for an unmapped address raise ILLEGAL and respond 0. -/
def execCsrRead (a : BitVec 8) (s : State) : Host.Outcome State Fault Refusal :=
  match s.csrValue? a with
  | some v => .next (respond .control v s)
  | none => .next (respond .control 0 (raise .illegal a.toNat s))

/-- SET_IE (46_csr_ops.md R292). -/
def execSetIe (mask : BitVec 9) (s : State) : Host.Outcome State Fault Refusal := .next { s with ie := mask }

/-- ACK (46_csr_ops.md R293). -/
def execAck (mask : BitVec 8) (s : State) : Host.Outcome State Fault Refusal := .next (clearPending mask s)

end Sys2Proof.Machine
end

