-- ==== Sys2Proof/Machine/Feedback.lean ====
section
/-! DEFINITION. The feedback-rate controller: SOF and FB_DONE (44_feedback.md R220 to R233). -/

namespace Sys2Proof.Machine

/-- `FbCompute(σ)` for a given `delta` (44_feedback.md R222, R225): the nominal rate in CLOSED and FILL, otherwise the
clamped `NOM[r] + sh_r(delta) - HALF[r]`. -/
def fbComputeAt (c : Config) (pst : PumpState) (r : Rate) (delta : Nat) : Int :=
  if pst = .closed ∨ pst = .fill then (c.at r).nom
  else clamp ((c.at r).nom + c.fbScale r delta - c.half r) (c.at r).fbMin (c.at r).fbMax

/-- `FbCompute(σ)` (44_feedback.md R222). -/
def State.fbCompute (s : State) : Int := fbComputeAt s.cfg s.pst s.rate s.delta.toNat

/-- FBLOST if the previous value is still unsent (44_feedback.md R224, R226). -/
def lostReport (s : State) : State := if s.fbReady = true then raise .fblost s.fbValue.toNat s else s

/-- The new value, computed from `delta` before it is cleared (44_feedback.md R224). -/
def newReport (s : State) : State :=
  { s with fbValue := BitVec.ofInt 24 s.fbCompute, delta := 0, fbReady := true }

/-- What a report boundary does (44_feedback.md R224). -/
def reportBoundary (s : State) : State := newReport (lostReport s)

/-- The SOF count after one more tick (44_feedback.md R224). -/
def State.nextSofcnt (s : State) : Nat := (s.sofcnt + 1) % 2 ^ s.cfg.sofShift

/-- The tick counter moves on (44_feedback.md R224). -/
def countTick (s : State) : State := { s with sofcnt := s.nextSofcnt }

/-- SOF (44_feedback.md R224): one tick, the boundary work when the count comes to 0, then the send test. -/
def sofTick (s : State) : State :=
  trySend (if s.nextSofcnt = 0 then reportBoundary (countTick s) else countTick s)

/-- SOF (44_feedback.md R224). -/
def execSof (s : State) : Host.Outcome State Fault Refusal := .next (sofTick s)

/-- FB_DONE (44_feedback.md R232): the endpoint is free, then the send test. -/
def execFbDone (s : State) : Host.Outcome State Fault Refusal := .next (trySend { s with epFree := true })

end Sys2Proof.Machine
end

