-- ==== Sys2Proof/Machine/Reframer.lean ====
section
/-! DEFINITION. The reframer stage of one PUMP: gain, mute and the derived centre channel (41_reframer.md R160 to
R166). -/

namespace Sys2Proof.Machine

/-- `Gain(x, g) = floor(x * g / 2^15)` (41_reframer.md R160). -/
def gain (x : Int) (g : Nat) : Int := floorShift (x * g) 15

/-- The gain a PUMP uses: 0 when muted, else `GAIN[atten]` (41_reframer.md R160). -/
def State.gainStep (s : State) : Nat := if s.mute = true then 0 else s.cfg.gain.getD s.atten 0

/-- One input frame after the gain stage: left and right, and with three channels the centre `floor((l' + r') / 2)`
(41_reframer.md R165, R166). -/
def gainFrame (nch g : Nat) (lr : Int × Int) : List Int :=
  if nch = 3 then [gain lr.1 g, gain lr.2 g, floorShift (gain lr.1 g + gain lr.2 g) 1]
  else [gain lr.1 g, gain lr.2 g]

/-- `Frames(σ, B)` (41_reframer.md R166). -/
def State.frames (s : State) (bytes : List Byte) : List (List Int) :=
  (reframe s.fmt bytes).map (gainFrame s.cfg.nch s.gainStep)

end Sys2Proof.Machine
end

