-- ==== Sys2Proof/Machine/Upsampler.lean ====
section
/-! DEFINITION. The polyphase FIR upsampler (42_upsampler.md R180 to R186). -/

namespace Sys2Proof.Machine

/-- Sample `X[n][c]` of a list of input frames. -/
def sampleAt (x : List (List Int)) (n c : Nat) : Int := (x.getD n []).getD c 0

/-- Register `k` (from 1) of row `c` of a filter table: `bl[c][k]`, `nse[c][k]` (10_state.md R27, R28). -/
def regAt (rows : List (List (BitVec 32))) (c k : Nat) : Int := ((rows.getD c []).getD (k - 1) 0).toInt

/-- The window `w(n, c, j)`: the input sample of channel `c` from `j` frames before frame `n`, from this pump's frames or
from the backlog (42_upsampler.md R180). -/
def window (bl : List (List (BitVec 32))) (x : List (List Int)) (n c j : Nat) : Int :=
  if j ≤ n then sampleAt x (n - j) c else regAt bl c (j - n)

/-- `acc(n, p, c)`, the exact sum of the taps of phase `p` over the window (42_upsampler.md R181). -/
def firAcc (cfg : Config) (r : Rate) (bl : List (List (BitVec 32))) (x : List (List Int)) (n p c : Nat) : Int :=
  ((List.range cfg.phaseLen).map fun j =>
    (cfg.at r).coef.getD (j * (cfg.at r).u + p) 0 * window bl x n c j).sum

/-- The output frames before the clamp: `floor(acc / 2^COEF_FRAC)` for every channel of output frame `m = n*U + p`, in
increasing m (42_upsampler.md R181, R182). -/
def upsampleRaw (cfg : Config) (r : Rate) (bl : List (List (BitVec 32))) (x : List (List Int)) : List (List Int) :=
  (List.range (cfg.framesPerPump r)).flatMap fun n =>
    (List.range (cfg.at r).u).map fun p =>
      (List.range cfg.nch).map fun c => floorShift (firAcc cfg r bl x n p c) cfg.coefFrac

/-- The output frames `Y`: every sample clamped by `sat_32` (42_upsampler.md R181). -/
def clampFrames (raw : List (List Int)) : List (List Int) := raw.map fun f => f.map (sat 32)

/-- The saturation events of one upsampler run: one for each sample that `sat_32` changes (42_upsampler.md R184). -/
def clampEvents (raw : List (List Int)) : Nat :=
  (raw.map fun f => f.countP fun v => sat 32 v != v).sum

/-- The backlog after a pump of `fpp` input frames (42_upsampler.md R183). -/
def shiftBacklog (cfg : Config) (fpp : Nat) (bl : List (List (BitVec 32))) (x : List (List Int)) :
    List (List (BitVec 32)) :=
  (List.range cfg.nch).map fun c =>
    (List.range (cfg.phaseLen - 1)).map fun i =>
      if i + 1 ≤ fpp then toReg (sampleAt x (fpp - (i + 1)) c) else toReg (regAt bl c (i + 1 - fpp))

end Sys2Proof.Machine
end

