-- ==== Sys2Proof/Machine/Shaper.lean ====
section
/-! DEFINITION. The noise shaper and quantiser (43_noise_shaper.md R200 to R206). -/

namespace Sys2Proof.Machine

/-- The filtered past error `floor((sum of NS_COEF[k] * nse[c][k]) / 2^NS_FRAC)` of one channel's row
(43_noise_shaper.md R200). -/
def shaperFeedback (cfg : Config) (row : List (BitVec 32)) : Int :=
  floorShift ((List.range cfg.nsOrder).map fun i => cfg.nsCoef.getD i 0 * (row.getD i 0).toInt).sum cfg.nsFrac

/-- The result of one Shape call: the code, the channel's new row of stored errors, and its saturation events. -/
structure Shaped where
  code : Int
  row  : List (BitVec 32)
  sats : Nat
deriving DecidableEq, Repr

/-- `q_raw`, the level nearest to `v`, ties upward (43_noise_shaper.md R200). -/
def quantRaw (cfg : Config) (v : Int) : Int :=
  floorShift (v + ((2 ^ (cfg.stepShift - 1) : Nat) : Int)) cfg.stepShift

/-- `q`, the level clamped to `[-QMAX, QMAX]` (43_noise_shaper.md R200, R201). -/
def quantLevel (cfg : Config) (v : Int) : Int := clamp (quantRaw cfg v) (-cfg.qMax) cfg.qMax

/-- `e = q * 2^S - v`, the new quantisation error (43_noise_shaper.md R200). -/
def quantError (cfg : Config) (v : Int) : Int := quantLevel cfg v * ((2 ^ cfg.stepShift : Nat) : Int) - v

/-- The row of stored errors with a new newest entry: `nse[1] <- e`, `nse[k] <- nse[k-1]` (43_noise_shaper.md R200). -/
def shiftErrors (cfg : Config) (e : Int) (row : List (BitVec 32)) : List (BitVec 32) :=
  (List.range cfg.nsOrder).map fun i => if i = 0 then toReg e else row.getD (i - 1) 0

/-- `Shape(x, c)` on the row of channel `c` (43_noise_shaper.md R200, events by R202). -/
def shape (cfg : Config) (row : List (BitVec 32)) (x : Int) : Shaped :=
  let v := x - shaperFeedback cfg row
  let e := quantError cfg v
  { code := quantLevel cfg v + cfg.mid
    row := shiftErrors cfg (sat 32 e) row
    sats := (if quantLevel cfg v ≠ quantRaw cfg v then 1 else 0) + (if sat 32 e ≠ e then 1 else 0) }

/-- Shape applied to every channel of one output frame; the channels' rows are separate (43_noise_shaper.md R203). -/
def shapeFrame (cfg : Config) (rows : List (List (BitVec 32))) (frame : List Int) : List Shaped :=
  (List.range cfg.nch).map fun c => shape cfg (rows.getD c []) (frame.getD c 0)

/-- The result of shaping a sequence of output frames: the codes in element order, the rows after it, the saturation
events. -/
structure ShapeRun where
  codes : List Int
  rows  : List (List (BitVec 32))
  sats  : Nat
deriving DecidableEq, Repr

/-- Shape applied to output frames in increasing order, within each frame to every channel (43_noise_shaper.md R203,
45_pump_control.md R252). -/
def shapeFrames (cfg : Config) : List (List (BitVec 32)) → List (List Int) → ShapeRun
  | rows, [] => { codes := [], rows := rows, sats := 0 }
  | rows, f :: fs =>
    let now := shapeFrame cfg rows f
    let rest := shapeFrames cfg (now.map Shaped.row) fs
    { codes := now.map Shaped.code ++ rest.codes
      rows := rest.rows
      sats := (now.map Shaped.sats).sum + rest.sats }

end Sys2Proof.Machine
end

