-- ==== Sys2Proof/Machine/Pump.lean ====
section
/-! DEFINITION. The consumer's commands: PUMP and OUT_DONE (45_pump_control.md R250 to R257). -/

namespace Sys2Proof.Machine

/-- `CHUNK(fmt, rate)`, the bytes one PUMP takes (00_scope.md R10). -/
def State.chunkBytes (s : State) : Nat := s.cfg.chunk s.fmt s.rate

/-- The gained input frames of the chunk at `tail` (45_pump_control.md R252, 41_reframer.md R166). -/
def State.pumpFrames (s : State) : List (List Int) := s.frames (s.ringBytes s.chunkBytes)

/-- The upsampled frames of that chunk before the clamp (42_upsampler.md R181). -/
def State.pumpRaw (s : State) : List (List Int) := upsampleRaw s.cfg s.rate s.bl s.pumpFrames

/-- The shaper's run over the upsampled frames of that chunk (43_noise_shaper.md R200). -/
def State.pumpShaped (s : State) : ShapeRun := shapeFrames s.cfg s.nse (clampFrames s.pumpRaw)

/-- All saturation events of the pump: the upsampler's and the shaper's (45_pump_control.md R252). -/
def State.pumpSats (s : State) : Nat := clampEvents s.pumpRaw + s.pumpShaped.sats

/-- The data path of one pump: take the chunk, shift the backlog, keep the shaper state, write half `h`
(45_pump_control.md R252). -/
def pumpData (h : BitVec 1) (s : State) : State :=
  { s with
    tail := (s.tail + s.chunkBytes) % s.cfg.rbSize
    bl := shiftBacklog s.cfg (s.cfg.framesPerPump s.rate) s.bl s.pumpFrames
    nse := s.pumpShaped.rows
    outBuf := writeCodes s.outBuf (s.cfg.outAddr h.toNat 0) s.pumpShaped.codes }

/-- SAT when any clamp fired (45_pump_control.md R252, 60_exceptions.md R312). -/
def pumpSat (nsat : Nat) (s : State) : State := if 0 < nsat then raise .sat nsat s else s

/-- In FILL, half `h` is marked; the pump that marks the second half enters RUNNING and enables the output
(45_pump_control.md R253). -/
def pumpFill (h : BitVec 1) (s : State) : State :=
  if s.pst = .fill then
    if markFilled s.filled h = 3 then
      raise .statechg 0 { s with pst := .running, outEn := true, filled := 0 }
    else { s with filled := markFilled s.filled h }
  else s

/-- A PUMP whose view shows a whole chunk (45_pump_control.md R252). -/
def pumpRun (h : BitVec 1) (s : State) : State := pumpFill h (pumpSat s.pumpSats (pumpData h s))

/-- A PUMP whose view shows less than a chunk: a no-op, with UNDERRUN in RUNNING only (45_pump_control.md R254, R255). -/
def pumpShort (s : State) : State := if s.pst = .running then raise .underrun s.countC s else s

/-- PUMP outside CLOSED once the consumer's view is refreshed (45_pump_control.md R252). -/
def pumpNow (h : BitVec 1) (s : State) : State := if s.countC < s.chunkBytes then pumpShort s else pumpRun h s

/-- PUMP outside CLOSED with the view draw `k` (45_pump_control.md R252). -/
def pumpWith (k : Nat) (h : BitVec 1) (s : State) : State := pumpNow h (refreshHeadCv k s)

/-- PUMP (45_pump_control.md R252): no effect at all in CLOSED; its draw is any value in `[0, lag]` (20_memory.md R71,
log 4). -/
def execPump (h : BitVec 1) (s : State) : Host.Outcome State Fault Refusal :=
  if s.pst = .closed then .next s else .next (pumpWith (drawView s.lagC s.draws) h s)

/-- OUT_DONE (45_pump_control.md R256): DRAIN to CLOSED, otherwise no effect. -/
def execOutDone (s : State) : Host.Outcome State Fault Refusal :=
  if s.pst = .drain then .next (raise .statechg 0 (enterClosed s)) else .next s

end Sys2Proof.Machine
end

