-- ==== Sys2Proof/Machine/Ring.lean ====
section
/-! DEFINITION. PUT, the producer side of the ring (40_ring_buffer.md R124 to R129). -/

namespace Sys2Proof.Machine

/-- `len'`: the length cut to whole frames while a stream has a format (40_ring_buffer.md R124 step 2, R125). -/
def wholeFrames (f : Fmt) (len : Nat) : Nat := if f = .none then len else len - len % f.frameBytes

/-- Step 2 of PUT: raise MALFORMED when the length is not a whole number of frames (40_ring_buffer.md R124). -/
def putMalformed (len : Nat) (s : State) : State :=
  if s.fmt ≠ .none ∧ len % s.fmt.frameBytes ≠ 0 then raise .malformed len s else s

/-- Store the first `n` payload bytes at `head`, advance `head`, and add the space left, `left`, to `delta`
(40_ring_buffer.md R124, R126). -/
def storePacket (n left : Nat) (payload : List Byte) (s : State) : State :=
  { s with
    mem := ringWrites s.cfg.rbSize s.mem s.head (payload.take n)
    head := (s.head + n) % s.cfg.rbSize
    delta := addSat32 s.delta left }

/-- Steps 3 and 4 of PUT, for the whole-frame length `n`: reject the packet whole, or store it, and respond
(40_ring_buffer.md R124 to R126). -/
def putStore (n : Nat) (payload : List Byte) (s : State) : State :=
  if n > s.spaceP then respond .producer (putResponse false s.spaceP) (raise .overflow n s)
  else respond .producer (putResponse true (s.spaceP - n)) (storePacket n (s.spaceP - n) payload s)

/-- PUT with the view draw `k` (40_ring_buffer.md R124): step 1 advances `tail_pv` by `k`, then steps 2 to 4. -/
def putWith (k : Nat) (len : BitVec 16) (payload : List Byte) (s : State) : State :=
  putStore (wholeFrames s.fmt len.toNat) payload (putMalformed len.toNat (refreshTailPv k s))

/-- PUT (40_ring_buffer.md R124): its draw is any value in `[0, lag]` (20_memory.md R71, log 4). -/
def execPut (len : BitVec 16) (payload : List Byte) (s : State) : Host.Outcome State Fault Refusal :=
  .next (putWith (drawView s.lagP s.draws) len payload s)

end Sys2Proof.Machine
end

