-- ==== Sys2Proof/Machine/Dispatch.lean ====
section
/-! DEFINITION. The dispatch of a command to its meaning, one arm per constructor of `Instr`. -/

namespace Sys2Proof.Machine

def exec (i : Instr) (s : State) : Host.Outcome State Fault Refusal :=
  match i with
  | .nop => Sys2Proof.Machine.execNop s
  | .put len payload => Sys2Proof.Machine.execPut len payload s
  | .sof => Sys2Proof.Machine.execSof s
  | .fbDone => Sys2Proof.Machine.execFbDone s
  | .configure fmt rate => Sys2Proof.Machine.execConfigure fmt rate s
  | .setMute mute => Sys2Proof.Machine.execSetMute mute s
  | .setAtten step => Sys2Proof.Machine.execSetAtten step s
  | .pump half => Sys2Proof.Machine.execPump half s
  | .outDone => Sys2Proof.Machine.execOutDone s
  | .csrRead addr => Sys2Proof.Machine.execCsrRead addr s
  | .setIe mask => Sys2Proof.Machine.execSetIe mask s
  | .ack mask => Sys2Proof.Machine.execAck mask s

end Sys2Proof.Machine
end

