-- ==== Sys2Proof/Machine/Input.lean ====
section
/-! DEFINITION. Taking the next transaction of the execution order (20_memory.md R70, 30_encoding.md R90, R94): what `step`
does with the input it finds, and how a table word becomes a transaction. -/

namespace Sys2Proof.Machine

/-- One transaction of a port (30_encoding.md R94): a legal command performs its rule, an illegal one raises ILLEGAL; what
is no transaction (R90) has no meaning (log 7). -/
def runTxn (t : Txn) (s : State) : Host.Outcome State Fault Refusal :=
  match decode t.port t.word t.payload with
  | .ok i => exec i s
  | .error .unframed => .refused .unframedTransaction
  | .error .reservedOpcode => .next (illegalCommand t s)
  | .error .reservedBits => .next (illegalCommand t s)
  | .error .wrongPort => .next (illegalCommand t s)
  | .error .reservedFormat => .next (illegalCommand t s)

/-- The next input of the execution order: none leaves the block idle in its state (60_exceptions.md R336), a command is
one transaction, power-on reset gives the state of 70_reset_and_hazards.md R340 (R342). -/
def runInput (s : State) : Host.Outcome State Fault Refusal :=
  match s.input with
  | [] => .next s
  | .command t :: rest => runTxn t { s with input := rest }
  | .powerOnReset :: rest => .next (powerOn { s with input := rest })

/-- The transaction of a table word: on its row's port, with as many payload bytes of 0 as it asks for (log 10). -/
def tableTxn (nbits w : Nat) : Txn :=
  { port := tablePort (tableWord nbits w), word := tableWord nbits w, payload := tablePayload (tableWord nbits w) }

/-- A state in which the next transaction is the one given. -/
def State.issue (s : State) (t : Txn) : State := { s with input := .command t :: s.input }

end Sys2Proof.Machine
end

