-- ==== Sys2Proof/Machine/Step.lean ====
section
/-! DEFINITION. One step of the machine: one transaction of the execution order (00_scope.md R6, 20_memory.md R70), under
a legal configuration (00_scope.md R8). -/

namespace Sys2Proof.Machine

/-- One step. An illegal configuration is refused and given no meaning (00_scope.md R8). -/
def step (s : State) : Host.Outcome State Fault Refusal :=
  if s.cfg.legal = true then runInput s else .refused .illegalConfiguration

/-- `s` with a table word issued as the very next transaction (log 10). The inputs already waiting stay behind it. -/
def State.withFetchWord (s : State) (nbits w : Nat) : State := s.issue (tableTxn nbits w)

end Sys2Proof.Machine
end

