-- ==== Sys2Proof/Machine/Assembler.lean ====
section
/-! DEFINITION. The assembly syntax of 30_encoding.md R103 as terms: one line per command, operands as numbers, and the
pseudo-instructions. An assembler rewrites a line to a command and encodes it by R92. -/

namespace Sys2Proof.Machine

/-- The CSR names of 10_state.md R33. -/
inductive CsrName where
  | version | param0 | param1 | param2 | status | format | gain | rbptr | rbcount | fbval | fbdelta | sofcnt | pend | ie
  | cntOverflow | cntUnderrun | cntMalformed | cntSat | cntFblost
deriving DecidableEq, Repr

/-- The address of a CSR (10_state.md R33). -/
def CsrName.addr : CsrName → BitVec 8
  | .version => 0x00
  | .param0 => 0x01
  | .param1 => 0x02
  | .param2 => 0x03
  | .status => 0x04
  | .format => 0x05
  | .gain => 0x06
  | .rbptr => 0x07
  | .rbcount => 0x08
  | .fbval => 0x09
  | .fbdelta => 0x0A
  | .sofcnt => 0x0B
  | .pend => 0x0C
  | .ie => 0x0D
  | .cntOverflow => 0x10
  | .cntUnderrun => 0x11
  | .cntMalformed => 0x12
  | .cntSat => 0x13
  | .cntFblost => 0x14

/-- A line of assembly (30_encoding.md R103): the commands, then the pseudo-instructions. -/
inductive AsmLine where
  | nop
  | put (bytes : List Byte)
  | sof
  | fbDone
  | configure (fmt : Fmt) (rate : Rate)
  | setMute (m : Nat)
  | setAtten (step : Nat)
  | pump (half : Nat)
  | outDone
  | csrRead (addr : Nat)
  | setIe (mask : Nat)
  | ack (mask : Nat)
  | start (fmt : Fmt) (rate : Rate)
  | stop
  | mute
  | unmute
  | ackAll
  | read (name : CsrName)
deriving DecidableEq, Repr

/-- The command of a line when every operand is in its range, a pseudo-instruction by its expansion (30_encoding.md
R103). -/
def AsmLine.command? : AsmLine → Option Instr
  | .nop => some .nop
  | .put bytes => if bytes.length < 2 ^ 16 then some (.put (BitVec.ofNat 16 bytes.length) bytes) else none
  | .sof => some .sof
  | .fbDone => some .fbDone
  | .configure f r => some (.configure f r)
  | .setMute m => if m < 2 then some (.setMute (m == 1)) else none
  | .setAtten step => if step < 2 ^ 8 then some (.setAtten (BitVec.ofNat 8 step)) else none
  | .pump half => if half < 2 then some (.pump (BitVec.ofNat 1 half)) else none
  | .outDone => some .outDone
  | .csrRead addr => if addr < 2 ^ 8 then some (.csrRead (BitVec.ofNat 8 addr)) else none
  | .setIe mask => if mask < 2 ^ 9 then some (.setIe (BitVec.ofNat 9 mask)) else none
  | .ack mask => if mask < 2 ^ 8 then some (.ack (BitVec.ofNat 8 mask)) else none
  | .start f r => if f = .none then none else some (.configure f r)
  | .stop => some (.configure .none .normal)
  | .mute => some (.setMute true)
  | .unmute => some (.setMute false)
  | .ackAll => some (.ack 0xFF)
  | .read name => some (.csrRead name.addr)

/-- The assembled word and payload of a line (30_encoding.md R103). -/
def AsmLine.assemble (line : AsmLine) : Option (Word × List Byte) := line.command?.map encode

end Sys2Proof.Machine
end

