-- ==== Sys2Proof/Safety.lean ====
section
/-! DEFINITION. What holds of every state a run can reach: the invariants of 10_state.md R38 and those the other rules
state about the state, as one structure; the reset state as the spec lists it; what the ring holds, read as a queue of
bytes; and the words the statements share for a transaction's effect. -/

namespace Sys2Proof.Machine

/-! ## Reset -/

/-- The state of 70_reset_and_hazards.md R340 under configuration `c`, field by field, with what the rule says it reads
as. The ring storage and the output buffer are unspecified: nothing is listed in either. -/
structure ResetState (c : Config) (s : State) : Prop where
  cfg        : s.cfg = c
  mem        : s.mem = []
  pointers   : s.head = 0 ∧ s.tail = 0 ∧ s.tailPv = 0 ∧ s.headCv = 0
  format     : s.fmt = .none ∧ s.rate = .normal
  backlog    : s.bl = List.replicate c.nch (List.replicate (c.phaseLen - 1) 0)
  errors     : s.nse = List.replicate c.nch (List.replicate c.nsOrder 0)
  gain       : s.mute = false ∧ s.atten = 0
  pump       : s.pst = .closed ∧ s.filled = 0 ∧ s.outEn = false
  feedback   : s.delta = 0 ∧ s.sofcnt = 0 ∧ s.fbValue.toNat = c.normal.nom ∧ s.fbReady = false ∧ s.epFree = true
  events     : s.pend = 0 ∧ s.ie = 0
  counters   : s.cntOverflow = 0 ∧ s.cntUnderrun = 0 ∧ s.cntMalformed = 0 ∧ s.cntSat = 0 ∧ s.cntFblost = 0
  outBuf     : s.outBuf = []
  irq        : s.irq = false
  status     : s.csrValue? 0x04 = some 0x00000040
  rbcount    : s.csrValue? 0x08 = some (BitVec.ofNat 32 ((c.rbSize - 1) * 65536))
  fbval      : s.csrValue? 0x09 = some (BitVec.ofNat 32 c.normal.nom)

/-! ## Invariants -/

/-- The table of a filter has `rows` rows of `cols` registers. -/
abbrev hasShape (t : List (List (BitVec 32))) (rows cols : Nat) : Prop := t.length = rows ∧ ∀ row ∈ t, row.length = cols

/-- The invariants of 10_state.md R38, (a) to (f). -/
structure State.R38 (s : State) : Prop where
  a_not_overfull  : modDist s.cfg.rbSize s.head s.tail ≤ s.cfg.rbSize - 1
  b_producer_view : modDist s.cfg.rbSize s.tail s.tailPv ≤ modDist s.cfg.rbSize s.head s.tailPv
  b_consumer_view : modDist s.cfg.rbSize s.headCv s.tail ≤ modDist s.cfg.rbSize s.head s.tail
  c_format        : s.fmt = .none ↔ s.pst = .closed
  d_filled        : s.pst ≠ .fill → s.filled = 0
  e_output_enable : s.outEn = true ↔ s.pst = .running ∨ s.pst = .drain
  f_attenuation   : s.atten ≤ s.cfg.attenMax

/-- The invariant of a legal configuration: R38, and with it the ranges of the index registers (10_state.md R23 to R25,
R31), the bounds of the reported value and the send flags (44_feedback.md R222, R230), the memories' canonical form and
extent (20_memory.md R60), every held slot written (20_memory.md R72), whole frames in the ring (20_memory.md R67), and
the shapes of the filter tables (10_state.md R27, R28). -/
structure State.Inv (s : State) : Prop where
  legal        : s.cfg.legal = true
  r38          : s.R38
  head_lt      : s.head < s.cfg.rbSize
  tail_lt      : s.tail < s.cfg.rbSize
  tailPv_lt    : s.tailPv < s.cfg.rbSize
  headCv_lt    : s.headCv < s.cfg.rbSize
  sofcnt_lt    : s.sofcnt < 2 ^ s.cfg.sofShift
  not_both     : s.filled ≠ 3
  fbValue_ge   : (s.cfg.at s.rate).fbMin ≤ s.fbValue.toNat
  fbValue_le   : s.fbValue.toNat ≤ (s.cfg.at s.rate).fbMax
  sent         : ¬ (s.fbReady = true ∧ s.epFree = true)
  mem_wf       : Memory.wf s.mem = true
  mem_slots    : Memory.below s.mem s.cfg.rbSize = true
  held_written : ∀ i < s.count, (Memory.read? s.mem ((s.tail + i) % s.cfg.rbSize)).isSome = true
  whole_frames : s.fmt ≠ .none → s.count % s.fmt.frameBytes = 0
  out_wf       : Memory.wf s.outBuf = true
  out_low      : Memory.atLeast s.outBuf s.cfg.outBase = true
  out_high     : Memory.below s.outBuf (s.cfg.outBase + 2 * s.cfg.halfBytes) = true
  bl_shape     : hasShape s.bl s.cfg.nch (s.cfg.phaseLen - 1)
  nse_shape    : hasShape s.nse s.cfg.nch s.cfg.nsOrder

/-! ## The ring as a queue -/

/-- The bytes the ring holds, oldest first: the `count` bytes from `tail` (40_ring_buffer.md R120, 20_memory.md R73). -/
def State.held (s : State) : List Byte := s.ringBytes s.count

/-! ## Transactions and runs -/

/-- A transaction is framed: a PUT word with exactly its `len` payload bytes, any other word with none (30_encoding.md
R90). -/
abbrev Txn.framed (t : Txn) : Prop := t.payload.length = payloadLength t.word

/-- Every transaction waiting in a list of inputs is framed. -/
def inputsFramed (inputs : List Input) : Prop := ∀ t, Input.command t ∈ inputs → t.framed

/-- The conditions of 30_encoding.md R94 on a word and its port, read from opcode_table.json: the opcode is one of 0x0 to
0xB and every reserved bit of its row is 0 (the word has the row's fixed bits), the port is in the row's port column, and
for CONFIGURE `fmt <= 4`. -/
def Txn.legalByTable (t : Txn) : Prop :=
  (∃ row ∈ opcodeRows, row.fits t.word = true ∧ t.port ∈ row.ports) ∧
  (t.word.toNat / 2 ^ 28 = 4 → t.word.toNat % 8 ≤ 4)

/-- Commands executed one after the other, stopping at the first that does not answer a next state. -/
def execAll : List Instr → State → Host.Outcome State Fault Refusal
  | [], s => .next s
  | i :: is, s =>
    match exec i s with
    | .next t => execAll is t
    | .fault r => .fault r
    | .refused r => .refused r

/-! ## Filters -/

/-- The absolute tap sum of every phase of a table is at most `2^COEF_FRAC` (42_upsampler.md R184). -/
abbrev unitTapSums (cfg : Config) (r : Rate) : Prop :=
  ∀ p < (cfg.at r).u,
    ((List.range cfg.phaseLen).map fun j => |(cfg.at r).coef.getD (j * (cfg.at r).u + p) 0|).sum ≤ 2 ^ cfg.coefFrac

/-! ## Words for exact arithmetic -/

/-- `q = floor(v / 2^k)`, by the two inequalities that define it (00_scope.md R12). -/
abbrev FloorOf (v : Int) (k : Nat) (q : Int) : Prop := q * 2 ^ k ≤ v ∧ v < (q + 1) * 2 ^ k

/-- `v = sh(d)` for a shift count of either sign: to the left where it is not negative, else the floor of the quotient
(00_scope.md R10). -/
abbrev ShiftedBy (shift : Int) (d : Nat) (v : Int) : Prop :=
  (0 ≤ shift → v = (d : Int) * 2 ^ shift.toNat) ∧ (shift < 0 → FloorOf d (-shift).toNat v)

/-! ## Words for a transaction's effect -/

/-- A 32-bit register counted up by `n` without wrapping (60_exceptions.md R312). -/
abbrev CountedUp (before after : BitVec 32) (n : Nat) : Prop := after.toNat = min (before.toNat + n) (2 ^ 32 - 1)

/-- The format descriptor, the gain and the pump state are unchanged. -/
abbrev SameControl (s t : State) : Prop :=
  t.fmt = s.fmt ∧ t.rate = s.rate ∧ t.mute = s.mute ∧ t.atten = s.atten ∧ t.pst = s.pst ∧ t.filled = s.filled
    ∧ t.outEn = s.outEn

/-- The FIR backlog and the shaper state are unchanged. -/
abbrev SameFilter (s t : State) : Prop := t.bl = s.bl ∧ t.nse = s.nse

/-- The feedback controller's registers but `delta` are unchanged. -/
abbrev SameReport (s t : State) : Prop :=
  t.sofcnt = s.sofcnt ∧ t.fbValue = s.fbValue ∧ t.fbReady = s.fbReady ∧ t.epFree = s.epFree

/-- The configuration, the inputs to come and the count of resets are unchanged. -/
abbrev SameOutside (s t : State) : Prop := t.cfg = s.cfg ∧ t.input = s.input ∧ t.resets = s.resets

/-- `len'` of a PUT (40_ring_buffer.md R124, R125): the length, cut to whole frames while there is a format. -/
def State.putBytes (s : State) (len : BitVec 16) : Nat :=
  if s.fmt = .none then len.toNat else len.toNat - len.toNat % s.fmt.frameBytes

/-- The packet's length is malformed (40_ring_buffer.md R124 step 2). -/
abbrev State.putIsMalformed (s : State) (len : BitVec 16) : Prop := s.fmt ≠ .none ∧ len.toNat % s.fmt.frameBytes ≠ 0

/-- What an accepted PUT does when the producer's view has advanced by `k` (40_ring_buffer.md R124 to R126). -/
structure PutAccepted (s t : State) (k : Nat) (len : BitVec 16) (b : List Byte) : Prop where
  view      : t.tailPv = (s.tailPv + k) % s.cfg.rbSize
  head      : t.head = (s.head + s.putBytes len) % s.cfg.rbSize
  stored    : ∀ i < s.putBytes len, some (t.ringRead (s.head + i)) = b[i]?
  kept      : ∀ slot < s.cfg.rbSize, s.putBytes len ≤ modDist s.cfg.rbSize slot s.head → t.ringRead slot = s.ringRead slot
  delta     : CountedUp s.delta t.delta (s.spaceP + k - s.putBytes len)
  response  : t.outputs = s.outputs ++ [.response .producer (BitVec.ofNat 32 (2 ^ 31 + (s.spaceP + k - s.putBytes len)))]
  pend      : t.pend = if s.putIsMalformed len then s.pend ||| 0x04 else s.pend
  malformed : CountedUp s.cntMalformed t.cntMalformed (if s.putIsMalformed len then 1 else 0)
  overflow  : t.cntOverflow = s.cntOverflow

/-- What a rejected PUT does when the producer's view has advanced by `k` (40_ring_buffer.md R124, R125). -/
structure PutRejected (s t : State) (k : Nat) (len : BitVec 16) : Prop where
  view      : t.tailPv = (s.tailPv + k) % s.cfg.rbSize
  head      : t.head = s.head
  kept      : ∀ slot, t.ringRead slot = s.ringRead slot
  delta     : t.delta = s.delta
  response  : t.outputs = s.outputs ++ [.response .producer (BitVec.ofNat 32 (s.spaceP + k))]
  pend      : t.pend = if s.putIsMalformed len then s.pend ||| 0x06 else s.pend ||| 0x02
  malformed : CountedUp s.cntMalformed t.cntMalformed (if s.putIsMalformed len then 1 else 0)
  overflow  : CountedUp s.cntOverflow t.cntOverflow 1

/-- What a PUMP of half `h` that runs the pipeline does when the consumer's view has advanced by `k`
(45_pump_control.md R252, R253). -/
structure PumpRan (s t : State) (k : Nat) (h : BitVec 1) : Prop where
  view    : t.headCv = (s.headCv + k) % s.cfg.rbSize
  tail    : t.tail = (s.tail + s.chunkBytes) % s.cfg.rbSize
  bl      : t.bl = shiftBacklog s.cfg (s.cfg.framesPerPump s.rate) s.bl s.pumpFrames
  nse     : t.nse = s.pumpShaped.rows
  written : ∀ i < s.cfg.outFrames * s.cfg.nch, some (t.outElem h.toNat i) = s.pumpShaped.codes[i]?.map (BitVec.ofInt 16)
  kept    : ∀ a, a < s.cfg.outAddr h.toNat 0 ∨ s.cfg.outAddr h.toNat 0 + s.cfg.halfBytes ≤ a → t.outRead a = s.outRead a
  sat     : CountedUp s.cntSat t.cntSat s.pumpSats
  fills   : s.pst = .fill → s.filled ||| (1#2 <<< h.toNat) = 3 →
              t.pst = .running ∧ t.outEn = true ∧ t.filled = 0 ∧
              t.pend = if s.pumpSats = 0 then s.pend ||| 0x80 else s.pend ||| 0x88
  marks   : s.pst = .fill → s.filled ||| (1#2 <<< h.toNat) ≠ 3 →
              t.pst = .fill ∧ t.outEn = s.outEn ∧ t.filled = s.filled ||| (1#2 <<< h.toNat) ∧
              t.pend = if s.pumpSats = 0 then s.pend else s.pend ||| 0x08
  plays   : s.pst ≠ .fill →
              t.pst = s.pst ∧ t.outEn = s.outEn ∧ t.filled = s.filled ∧
              t.pend = if s.pumpSats = 0 then s.pend else s.pend ||| 0x08

/-- How the stages of a PUMP of half `h` that runs compose (45_pump_control.md R252), from the gained frames
`X = s.pumpFrames`: `up m c` is the sample of channel `c` in output frame `m` before the clamp, and `row m c` the stored errors
of channel `c` before output frame `m`. -/
structure PumpStages (s t : State) (h : BitVec 1) (up : Nat → Nat → Int) (row : Nat → Nat → List (BitVec 32)) : Prop where
  /-- 42_upsampler.md R180 to R182: output frame `n*U + p` is the floor of the taps of phase `p` over the window. -/
  upsampled : ∀ n < s.cfg.framesPerPump s.rate, ∀ p < (s.cfg.at s.rate).u, ∀ c < s.cfg.nch,
    FloorOf
      (∑ j ∈ Finset.range s.cfg.phaseLen, (s.cfg.at s.rate).coef.getD (j * (s.cfg.at s.rate).u + p) 0 *
        (if j ≤ n then (s.pumpFrames.getD (n - j) []).getD c 0 else ((s.bl.getD c []).getD (j - n - 1) 0).toInt))
      s.cfg.coefFrac (up (n * (s.cfg.at s.rate).u + p) c)
  /-- 43_noise_shaper.md R203: each channel starts from its own row. -/
  first     : ∀ c < s.cfg.nch, row 0 c = s.nse.getD c []
  /-- 43_noise_shaper.md R200, R203: Shape runs on the clamped sample with the row the channel's earlier calls left. -/
  threaded  : ∀ m < s.cfg.outFrames, ∀ c < s.cfg.nch,
    row (m + 1) c = (shape s.cfg (row m c) (max (-2 ^ 31) (min (2 ^ 31 - 1) (up m c)))).row
  last      : t.nse.length = s.cfg.nch ∧ ∀ c < s.cfg.nch, t.nse.getD c [] = row s.cfg.outFrames c
  /-- 45_pump_control.md R252, 20_memory.md R63, R64: the code goes to `out[h][m*NCH + c]`, low byte first. -/
  written   : ∀ m < s.cfg.outFrames, ∀ c < s.cfg.nch,
    let a := s.cfg.outBase + h.toNat * (s.cfg.outFrames * s.cfg.nch * 2) + (m * s.cfg.nch + c) * 2
    ((t.outRead a).toNat : Int) + 256 * (t.outRead (a + 1)).toNat =
      (shape s.cfg (row m c) (max (-2 ^ 31) (min (2 ^ 31 - 1) (up m c)))).code
  /-- 42_upsampler.md R183: the newest samples, then the old backlog. -/
  backlog   : ∀ c < s.cfg.nch, ∀ j, 1 ≤ j → j ≤ s.cfg.phaseLen - 1 →
    ((t.bl.getD c []).getD (j - 1) 0).toInt =
      if j ≤ s.cfg.framesPerPump s.rate then (s.pumpFrames.getD (s.cfg.framesPerPump s.rate - j) []).getD c 0
      else ((s.bl.getD c []).getD (j - s.cfg.framesPerPump s.rate - 1) 0).toInt
  /-- 42_upsampler.md R184, 43_noise_shaper.md R202: the events of all the samples of the pump. -/
  events    : s.pumpSats =
    ∑ m ∈ Finset.range s.cfg.outFrames, ∑ c ∈ Finset.range s.cfg.nch,
      ((if max (-2 ^ 31) (min (2 ^ 31 - 1) (up m c)) ≠ up m c then 1 else 0) +
        (shape s.cfg (row m c) (max (-2 ^ 31) (min (2 ^ 31 - 1) (up m c)))).sats)
  counted   : CountedUp s.cntSat t.cntSat s.pumpSats

/-- What a PUMP that runs the pipeline leaves unchanged (45_pump_control.md R252). -/
abbrev PumpKeeps (s t : State) : Prop :=
  t.head = s.head ∧ t.tailPv = s.tailPv ∧ (∀ slot, t.ringRead slot = s.ringRead slot) ∧
  t.fmt = s.fmt ∧ t.rate = s.rate ∧ t.mute = s.mute ∧ t.atten = s.atten ∧ t.delta = s.delta ∧
  SameReport s t ∧ SameOutside s t ∧ t.ie = s.ie ∧ t.outputs = s.outputs ∧ t.cntUnderrun = s.cntUnderrun ∧
  t.cntOverflow = s.cntOverflow ∧ t.cntMalformed = s.cntMalformed ∧ t.cntFblost = s.cntFblost

end Sys2Proof.Machine
end

