-- ==== Sys2Proof/Certificates/Slice0/Obligations.lean ====
section
/-! DEFINITION. The statements for the provers, from the numbered rules of spec/, file by file. -/

open Sys2Proof Sys2Proof.Machine

/-! ## Encoding (30_encoding.md) -/

/-- Decode reads back every command: no operand bit of R92's patterns is dropped, on every port of the command. -/
def Obligations.DecodeReadsBackEveryCommand : Prop :=
  ∀ (i : Instr) (p : Port), i.wellFormed = true → p ∈ i.ports → decode p i.word i.payloadBytes = .ok i

/-- Encode reads back every legal word: a word that decodes is the encoding of what it decodes to, so no two words stand
for one command on a port and no reserved bit is ignored (R91). -/
def Obligations.EncodeReadsBackEveryLegalWord : Prop :=
  ∀ (p : Port) (w : Word) (b : List Byte) (i : Instr), decode p w b = .ok i →
    i.wellFormed = true ∧ p ∈ i.ports ∧ i.word = w ∧ i.payloadBytes = b

/-- The decoder accepts exactly what opcode_table.json lists, under the mnemonic the table gives: the four conditions of
R94. -/
def Obligations.DecoderAcceptsTheOpcodeTable : Prop :=
  ∀ t : Txn, t.framed →
    ((∃ i, decode t.port t.word t.payload = .ok i) ↔ t.legalByTable) ∧
    ∀ i, decode t.port t.word t.payload = .ok i →
      ∃ row ∈ opcodeRows, row.fits t.word = true ∧ t.port ∈ row.ports ∧ row.mnemonic = i.mnemonic

/-- A legal command performs its rule; an illegal one sets `pend[ILLEGAL]`, changes no other state and discards a payload
(R94). It responds 0 where its opcode is PUT's or CSR_READ's (R98), on the port the word arrived on (00_scope.md R13); that it
does so on a port that is not the command's own is the model's choice (DESIGN CHOICE, log 8). -/
def Obligations.IllegalCommandOnlyRaisesIllegal : Prop :=
  ∀ (s : State) (t : Txn) (rest : List Input), s.cfg.legal = true → t.framed → s.input = .command t :: rest →
    (t.legalByTable → ∃ i, decode t.port t.word t.payload = .ok i ∧ step s = exec i { s with input := rest }) ∧
    (¬ t.legalByTable → step s = .next { s with
      input := rest
      pend := s.pend ||| 0x20
      outputs := s.outputs ++
        if t.word.toNat / 2 ^ 28 = 1 ∨ t.word.toNat / 2 ^ 28 = 9 then [.response t.port 0] else [] })

/-- Words written out from the spec's patterns and examples decode to the commands they stand for. -/
def Obligations.SpecWordsDecode : Prop :=
  decode .control 0x4000000A#32 [] = .ok (.configure .s24 .double) ∧
  decode .producer 0x10000004#32 [0x00, 0x40, 0x00, 0xC0] = .ok (.put 4 [0x00, 0x40, 0x00, 0xC0]) ∧
  decode .consumer 0x70000001#32 [] = .ok (.pump 1) ∧
  decode .control 0x60000009#32 [] = .ok (.setAtten 9) ∧
  decode .control 0xA00001FF#32 [] = .ok (.setIe 0x1FF) ∧
  decode .control 0xB0000082#32 [] = .ok (.ack 0x82) ∧
  decode .control 0x40000005#32 [] = .error .reservedFormat ∧
  decode .producer 0x20000001#32 [] = .error .reservedBits ∧
  decode .producer 0x70000000#32 [] = .error .wrongPort ∧
  decode .control 0xC0000000#32 [] = .error .reservedOpcode

/-- Assembled lines decode to the line's command on each of its ports, the pseudo-instructions assemble to the words R103
gives, and the nineteen CSR names stand for the addresses of 10_state.md R33. -/
def Obligations.AssembledLinesDecode : Prop :=
  (∀ (line : AsmLine) (i : Instr) (p : Port), line.command? = some i → p ∈ i.ports →
    ∃ w b, line.assemble = some (w, b) ∧ decode p w b = .ok i) ∧
  AsmLine.assemble .stop = some (0x40000000, []) ∧
  AsmLine.assemble .mute = some (0x50000001, []) ∧
  AsmLine.assemble .unmute = some (0x50000000, []) ∧
  AsmLine.assemble .ackAll = some (0xB00000FF, []) ∧
  (∀ f r, f ≠ .none → AsmLine.assemble (.start f r) = AsmLine.assemble (.configure f r)) ∧
  (∀ n : CsrName, AsmLine.assemble (.read n) = AsmLine.assemble (.csrRead n.addr.toNat)) ∧
  ([.version, .param0, .param1, .param2, .status, .format, .gain, .rbptr, .rbcount, .fbval, .fbdelta, .sofcnt, .pend,
      .ie] : List CsrName).map CsrName.addr =
    [0x00, 0x01, 0x02, 0x03, 0x04, 0x05, 0x06, 0x07, 0x08, 0x09, 0x0A, 0x0B, 0x0C, 0x0D] ∧
  ([.cntOverflow, .cntUnderrun, .cntMalformed, .cntSat, .cntFblost] : List CsrName).map CsrName.addr =
    [0x10, 0x11, 0x12, 0x13, 0x14]

/-! ## The machine: step, reset, invariants (00_scope.md, 10_state.md, 70_reset_and_hazards.md) -/

/-- A step runs the decoded command: when the next transaction decodes, the step is `exec` of that command on the state
with the transaction taken off the input. -/
def Obligations.StepRunsTheDecodedCommand : Prop :=
  ∀ (s : State) (t : Txn) (rest : List Input) (i : Instr),
    s.cfg.legal = true → s.input = .command t :: rest → decode t.port t.word t.payload = .ok i →
    i.wellFormed = true ∧ step s = exec i { s with input := rest }

/-- An illegal configuration has no meaning (R8); without a command the block is idle (60_exceptions.md R336); an input
that is no transaction is refused (the model's choice, log 7). -/
def Obligations.StepWithoutACommand : Prop :=
  (∀ s : State, s.cfg.legal = false → step s = .refused .illegalConfiguration) ∧
  (∀ s : State, s.cfg.legal = true → s.input = [] → step s = .next s) ∧
  (∀ (s : State) (t : Txn) (rest : List Input), s.cfg.legal = true → s.input = .command t :: rest → ¬ t.framed →
    step s = .refused .unframedTransaction)

/-- No operation blocks (20_memory.md R70): under a legal configuration, framed inputs never stop the machine. -/
def Obligations.FramedInputsNeverStop : Prop :=
  ∀ s : State, s.cfg.legal = true → inputsFramed s.input →
    ∃ t, step s = .next t ∧ t.input = s.input.tail ∧ t.cfg = s.cfg

/-- R340: the state after power-on reset, whatever the legal configuration, and the same state from a power-on reset during
operation (R342), which emits nothing and raises nothing. -/
def Obligations.PowerOnResetState : Prop :=
  ∀ c : Config, c.legal = true →
    (ResetState c (State.resetOf c) ∧ (State.resetOf c).R38) ∧
    ∀ (s : State) (rest : List Input), s.cfg = c → s.input = .powerOnReset :: rest →
      ∃ t, step s = .next t ∧ ResetState c t ∧ t.R38 ∧ t.outputs = s.outputs ∧ t.input = rest

/-- The invariant holds after reset, whatever the legal configuration. -/
def Obligations.ResetMeetsTheInvariant : Prop := ∀ c : Config, c.legal = true → (State.resetOf c).Inv

/-- Every step keeps the invariant. -/
def Obligations.EveryStepKeepsTheInvariant : Prop :=
  ∀ s t : State, s.Inv → step s = .next t → t.Inv

/-- 10_state.md R38 (the spec's own inference): every reachable state of a legal configuration satisfies (a) to (f),
whatever transactions arrive in whatever order. -/
def Obligations.ReachableStatesSatisfyR38 : Prop :=
  ∀ (c : Config) (inputs : List Input) (n : Nat) (t : State), c.legal = true →
    Host.Core.run Sys2Proof.core n { State.resetOf c with input := inputs } = .next t → t.R38

/-- The configuration is fixed for the life of the block (20_memory.md R81): no command writes a parameter. -/
def Obligations.NoCommandWritesAParameter : Prop :=
  ∀ (i : Instr) (s t : State), exec i s = .next t → t.cfg = s.cfg

/-! ## Ring buffer (40_ring_buffer.md, 20_memory.md) -/

/-- PUT of a packet that fits the producer's view of the space is accepted whatever the view draw (R124 to R126), and
changes only what the rule lists. -/
def Obligations.PutStoresAFittingPacket : Prop :=
  ∀ (s : State) (len : BitVec 16) (b : List Byte), s.Inv → b.length = len.toNat → s.putBytes len ≤ s.spaceP →
    ∃ k ≤ s.lagP, ∃ t, exec (.put len b) s = .next t ∧ PutAccepted s t k len b ∧
      t.tail = s.tail ∧ t.headCv = s.headCv ∧ SameControl s t ∧ SameFilter s t ∧ SameReport s t ∧ SameOutside s t ∧
      t.ie = s.ie ∧ t.cntUnderrun = s.cntUnderrun ∧ t.cntSat = s.cntSat ∧ t.cntFblost = s.cntFblost ∧
      ∀ a, t.outRead a = s.outRead a

/-- PUT is all or nothing for every draw (R124, R125): the truncated length fits the space the refreshed view shows and
the packet is stored, or it does not and nothing is stored. -/
def Obligations.PutIsAllOrNothing : Prop :=
  ∀ (s : State) (len : BitVec 16) (b : List Byte), s.Inv → b.length = len.toNat →
    ∃ k ≤ s.lagP, ∃ t, exec (.put len b) s = .next t ∧
      (s.putBytes len ≤ s.spaceP + k → PutAccepted s t k len b) ∧
      (s.spaceP + k < s.putBytes len → PutRejected s t k len ∧ t.mem = s.mem) ∧
      t.tail = s.tail ∧ t.headCv = s.headCv ∧ SameControl s t ∧ SameFilter s t ∧ SameReport s t ∧ SameOutside s t ∧
      t.ie = s.ie ∧ t.cntUnderrun = s.cntUnderrun ∧ t.cntSat = s.cntSat ∧ t.cntFblost = s.cntFblost ∧
      ∀ a, t.outRead a = s.outRead a

/-- The exact count and space and each side's view of them (R120, R121), which never promise more than there is (R121). A
PUT adds exactly the bytes it stores to the count, its whole-frame length when it answers accepted and 0 when it does not,
leaves one slot free, and leaves every held byte in place (R122, the spec's own inference). -/
def Obligations.PutNeverOverwritesHeldBytes : Prop :=
  ∀ s : State, s.Inv →
    (s.count : Int) = ((s.head : Int) - s.tail) % 2 ^ s.cfg.rbLog2 ∧ s.space + s.count = 2 ^ s.cfg.rbLog2 - 1 ∧
    (s.spaceP : Int) = 2 ^ s.cfg.rbLog2 - 1 - ((s.head : Int) - s.tailPv) % 2 ^ s.cfg.rbLog2 ∧
    (s.countC : Int) = ((s.headCv : Int) - s.tail) % 2 ^ s.cfg.rbLog2 ∧
    s.spaceP ≤ s.space ∧ s.countC ≤ s.count ∧
    ∀ (len : BitVec 16) (b : List Byte) (t : State), b.length = len.toNat → exec (.put len b) s = .next t →
      (∃ v : Word, t.outputs = s.outputs ++ [.response .producer v] ∧
        t.count = s.count + (if v.msb then s.putBytes len else 0)) ∧
      t.count ≤ 2 ^ s.cfg.rbLog2 - 1 ∧ (t.head = t.tail ↔ t.count = 0) ∧
      ∀ i < s.count, t.ringRead (s.tail + i) = s.ringRead (s.tail + i)

/-- The ring is a byte queue (20_memory.md R73, the spec's own inference): an accepted PUT appends its whole-frame bytes, a
PUMP removes exactly one chunk from the front or nothing, a stream set-up empties it, and no other command changes what
it holds. -/
def Obligations.RingIsAByteQueue : Prop :=
  ∀ s : State, s.Inv →
    (∀ (len : BitVec 16) (b : List Byte) (t : State), b.length = len.toNat → exec (.put len b) s = .next t →
      ∃ v : Word, t.outputs = s.outputs ++ [.response .producer v] ∧
        t.held = s.held ++ if v.msb then b.take (s.putBytes len) else []) ∧
    (∀ (h : BitVec 1) (t : State), exec (.pump h) s = .next t →
      (t.tail = s.tail ∧ t.held = s.held) ∨
      (s.chunkBytes ≤ s.held.length ∧ s.ringBytes s.chunkBytes ++ t.held = s.held)) ∧
    (∀ (f : Fmt) (r : Rate) (t : State), exec (.configure f r) s = .next t →
      t.held = if f ≠ .none ∧ (s.pst = .closed ∨ s.pst = .fill) then [] else s.held) ∧
    (∀ (i : Instr) (t : State),
      i = .nop ∨ i = .sof ∨ i = .fbDone ∨ (∃ m, i = .setMute m) ∨ (∃ a, i = .setAtten a) ∨ i = .outDone ∨
        (∃ a, i = .csrRead a) ∨ (∃ m, i = .setIe m) ∨ (∃ m, i = .ack m) →
      exec i s = .next t → t.held = s.held)

/-! ## Reframer and gain (41_reframer.md) -/

/-- The frame sizes of R10 (00_scope.md), and the integer formats decode exactly, little-endian (R151; the byte order beyond
S16 is the spec's general knowledge). -/
def Obligations.IntegerSamplesDecodeExactly : Prop :=
  [Fmt.none, .s16, .s24, .s32, .f32].map Fmt.bytesPerSample = [0, 2, 3, 4, 4] ∧
  (∀ f : Fmt, f.frameBytes = 2 * f.bytesPerSample) ∧
  (∀ b0 b1 : Byte, decodeSample .s16 [b0, b1] = (b1 ++ b0).toInt * 2 ^ 16) ∧
  (∀ b0 b1 b2 : Byte, decodeSample .s24 [b0, b1, b2] = (b2 ++ b1 ++ b0).toInt * 2 ^ 8) ∧
  (∀ b0 b1 b2 b3 : Byte, decodeSample .s32 [b0, b1, b2, b3] = (b3 ++ b2 ++ b1 ++ b0).toInt)

/-- A finite float is truncated toward zero after scaling by `2^31` and clamped to `[-2^31, 2^31-1]`; NaN gives 0, infinities
full scale (R153, R154; the IEEE layout is the spec's general knowledge); an F32 sample is read little-endian. -/
def Obligations.FloatSamplesTruncateTowardZero : Prop :=
  (∀ b0 b1 b2 b3 : Byte, decodeSample .f32 [b0, b1, b2, b3] = f32ToQ31 (b3 ++ b2 ++ b1 ++ b0).toNat) ∧
  ∀ (sgn : Bool) (e : BitVec 8) (f : BitVec 23),
    let u := (BitVec.ofBool sgn ++ e ++ f).toNat
    let magnitude : ℚ := if e = 0 then (f.toNat : ℚ) * 2 ^ (-149 : ℤ) else ((2 ^ 23 + f.toNat : ℕ) : ℚ) * 2 ^ ((e.toNat : ℤ) - 150)
    (e = 255 → f ≠ 0 → f32ToQ31 u = 0) ∧
    (e = 255 → f = 0 → f32ToQ31 u = if sgn then -2147483648 else 2147483647) ∧
    (e ≠ 255 → f32ToQ31 u = max (-2 ^ 31) (min (2 ^ 31 - 1) ((if sgn then -1 else 1) * ⌊magnitude * 2 ^ 31⌋)))

/-- Reframe decodes whole frames in order, left sample first, and ignores a remainder (R152, R155; the channel order is the
spec's general knowledge). -/
def Obligations.ReframeDecodesWholeFrames : Prop :=
  ∀ (f : Fmt) (frames : List (List Byte)) (rest : List Byte), f ≠ .none →
    (∀ x ∈ frames, x.length = f.frameBytes) → rest.length < f.frameBytes →
    reframe f (frames.flatten ++ rest) =
      frames.map fun x => (decodeSample f (x.take f.bytesPerSample), decodeSample f (x.drop f.bytesPerSample))

/-- Gain is `floor(x * g / 2^15)` for every sample and every legal gain (R160), it never leaves the sample range and never
enlarges a magnitude, unity and zero are exact (R161, the spec's own inference), and a smaller gain never gives a larger
magnitude (R162, the spec's own inference). -/
def Obligations.GainScalesExactly : Prop :=
  ∀ (x : Int) (g : Nat), -2 ^ 31 ≤ x → x ≤ 2 ^ 31 - 1 → g ≤ 32768 →
    gain x g * 2 ^ 15 ≤ x * g ∧ x * g < (gain x g + 1) * 2 ^ 15 ∧
    -2 ^ 31 ≤ gain x g ∧ gain x g ≤ 2 ^ 31 - 1 ∧ |gain x g| ≤ |x| ∧
    gain x 32768 = x ∧ gain x 0 = 0 ∧
    ∀ g' ≤ g, |gain x g'| ≤ |gain x g|

/-- The frames of one pump (R166): FPP frames, frame `i` made of the `i`-th wire frame from `tail` with the gain `g` of the
pump, 0 when muted and `GAIN[atten]` otherwise (R160): left `floor(l * g / 2^15)`, right `floor(r * g / 2^15)`, and with three
channels the floor of half their sum (R165). Every sample lies in `[-2^31, 2^31-1]`. -/
def Obligations.PumpFramesAreInRange : Prop :=
  ∀ s : State, s.Inv → s.pst ≠ .closed →
    s.pumpFrames.length = s.cfg.framesPerPump s.rate ∧
    s.cfg.framesPerPump s.rate * (s.cfg.at s.rate).u = s.cfg.outFrames ∧
    s.chunkBytes = s.fmt.frameBytes * s.cfg.framesPerPump s.rate ∧
    ∃ g : Nat, (s.mute = true → g = 0) ∧ (s.mute = false → s.cfg.gain[s.atten]? = some g) ∧
      ∀ i < s.cfg.framesPerPump s.rate,
        let wire (side : Nat) : Int := decodeSample s.fmt ((List.range s.fmt.bytesPerSample).map fun j =>
          s.ringRead (s.tail + (i * s.fmt.frameBytes + side * s.fmt.bytesPerSample + j)))
        ∃ l r : Int, FloorOf (wire 0 * g) 15 l ∧ FloorOf (wire 1 * g) 15 r ∧
          (s.cfg.nch = 2 → s.pumpFrames[i]? = some [l, r]) ∧
          (s.cfg.nch = 3 → ∃ c : Int, FloorOf (l + r) 1 c ∧ s.pumpFrames[i]? = some [l, r, c]) ∧
          ∀ x, s.pumpFrames[i]? = some x → x.length = s.cfg.nch ∧ ∀ v ∈ x, -2 ^ 31 ≤ v ∧ v ≤ 2 ^ 31 - 1

/-- Mute gives silence (R161, the spec's own inference; R270): while `mute` is set or `atten` is ATTEN_MAX every gained
sample is 0, and from a zero filter and shaper state every code is `MID = 2^(PWM_BITS-1)`. -/
def Obligations.MuteIsSilence : Prop :=
  ∀ s : State, s.Inv → s.mute = true ∨ s.atten = s.cfg.attenMax →
    (∀ x ∈ s.pumpFrames, ∀ v ∈ x, v = 0) ∧
    (s.bl = zeroRows s.cfg.nch (s.cfg.phaseLen - 1) → s.nse = zeroRows s.cfg.nch s.cfg.nsOrder →
      ∀ q ∈ s.pumpShaped.codes, q = 2 ^ (s.cfg.pwmBits - 1))

/-! ## Upsampler (42_upsampler.md) -/

/-- The accumulator and the window (R180, R181), and continuity (R185, the spec's own inference): over the frames of two
pumps taken as one run, the outputs of the first pump's frames are the first pump's, the outputs of the second's are those of
a pump over the backlog the first left, and the backlogs after both are the same; so any sequence of pumps is one run. -/
def Obligations.UpsamplerIsContinuous : Prop :=
  ∀ (cfg : Config) (r : Rate) (bl : List (List (BitVec 32))) (x y : List (List Int)),
    (∀ n p c : Nat, firAcc cfg r bl x n p c =
      ∑ j ∈ Finset.range cfg.phaseLen, (cfg.at r).coef.getD (j * (cfg.at r).u + p) 0 *
        (if j ≤ n then (x.getD (n - j) []).getD c 0 else ((bl.getD c []).getD (j - n - 1) 0).toInt)) ∧
    (∀ n p c : Nat, n < x.length → firAcc cfg r bl (x ++ y) n p c = firAcc cfg r bl x n p c) ∧
    ((∀ f ∈ x, ∀ v ∈ f, -2 ^ 31 ≤ v ∧ v ≤ 2 ^ 31 - 1) → ∀ n p c : Nat, c < cfg.nch →
      firAcc cfg r bl (x ++ y) (x.length + n) p c = firAcc cfg r (shiftBacklog cfg x.length bl x) y n p c) ∧
    shiftBacklog cfg (x ++ y).length bl (x ++ y) =
      shiftBacklog cfg y.length (shiftBacklog cfg x.length bl x) y

/-- DC (R185, the spec's own inference): if the taps of phase p sum to `2^COEF_FRAC` and the window is constant, the output
is that constant. -/
def Obligations.UpsamplerPassesDC : Prop :=
  ∀ (cfg : Config) (r : Rate) (bl : List (List (BitVec 32))) (x : List (List Int)) (n p c : Nat) (v : Int),
    ((List.range cfg.phaseLen).map fun j => (cfg.at r).coef.getD (j * (cfg.at r).u + p) 0).sum = 2 ^ cfg.coefFrac →
    (∀ j < cfg.phaseLen, window bl x n c j = v) →
    floorShift (firAcc cfg r bl x n p c) cfg.coefFrac = v

/-- R184's sentence as it stands: with a table whose every phase has absolute tap sum at most `2^COEF_FRAC` no saturation
occurs. Expected to FAIL: a negative tap times the sample `-2^31` gives `+2^31`, which clamps. -/
def Obligations.UnitTapSumsNeverSaturate : Prop :=
  ∀ (cfg : Config) (r : Rate) (bl : List (List (BitVec 32))) (x : List (List Int)), cfg.legal = true →
    unitTapSums cfg r → (∀ f ∈ x, ∀ v ∈ f, -2 ^ 31 ≤ v ∧ v ≤ 2 ^ 31 - 1) →
    clampEvents (upsampleRaw cfg r bl x) = 0

/-- R184's sentence for tables without negative taps, as the reference profile's are. -/
def Obligations.PositiveUnitTapSumsNeverSaturate : Prop :=
  ∀ (cfg : Config) (r : Rate) (bl : List (List (BitVec 32))) (x : List (List Int)), cfg.legal = true →
    unitTapSums cfg r → (∀ k ∈ (cfg.at r).coef, 0 ≤ k) → (∀ f ∈ x, ∀ v ∈ f, -2 ^ 31 ≤ v ∧ v ≤ 2 ^ 31 - 1) →
    clampEvents (upsampleRaw cfg r bl x) = 0

/-! ## Noise shaper (43_noise_shaper.md) -/

/-- One Shape call (R200, with R201, R202 and R204 as the spec infers them): the input minus the filtered past error `fbk`,
the floor of the tap sum over `2^NS_FRAC`, is quantised to the nearest level, ties upward, and clamped; the code is that level
biased by `2^(PWM_BITS-1)` and lies in `[1, 2^PWM_BITS - 1]`; without the quantiser clamp the new error lies in
`(-2^(S-1), 2^(S-1)]`; the error is clamped to 32 bits and shifted into the row; each clamp counts one event. -/
def Obligations.ShapeQuantisesToTheNearestLevel : Prop :=
  ∀ (cfg : Config) (row : List (BitVec 32)) (x : Int), cfg.legal = true →
    ∃ fbk qRaw q e eSt : Int,
      let step : Int := 2 ^ (32 - cfg.pwmBits)
      let qMax : Int := 2 ^ (cfg.pwmBits - 1) - 1
      let v := x - fbk
      let out := shape cfg row x
      FloorOf (∑ k ∈ Finset.range cfg.nsOrder, cfg.nsCoef.getD k 0 * (row.getD k 0).toInt) cfg.nsFrac fbk ∧
      FloorOf (v + step / 2) (32 - cfg.pwmBits) qRaw ∧
      q = max (-qMax) (min qMax qRaw) ∧ e = q * step - v ∧ eSt = max (-2 ^ 31) (min (2 ^ 31 - 1) e) ∧
      out.code = q + 2 ^ (cfg.pwmBits - 1) ∧ 1 ≤ out.code ∧ out.code ≤ 2 ^ cfg.pwmBits - 1 ∧
      (q = qRaw → -(step / 2) < e ∧ e ≤ step / 2) ∧
      out.row.length = cfg.nsOrder ∧ (out.row.getD 0 0).toInt = eSt ∧
      (∀ k, k + 1 < cfg.nsOrder → out.row.getD (k + 1) 0 = row.getD k 0) ∧
      out.sats = (if q ≠ qRaw then 1 else 0) + (if eSt ≠ e then 1 else 0)

/-! ## Feedback (44_feedback.md) -/

/-- FbCompute (R222): in CLOSED and FILL the nominal rate (R225); in RUNNING and DRAIN `NOM + sh_r(delta) - HALF` clamped to
the bounds, with the shift `sh_r` of either sign and `HALF = floor(sh_r(FB_D) / 2)`, `FB_D = RBSIZE << SOF_SHIFT`
(00_scope.md R10). With it R223 as the spec infers it: non-decreasing in `delta`, within the bounds, at `delta = 0` its least
value `max(FB_MIN, NOM - HALF)`, at half the expected range NOM when the shift is at least 1. -/
def Obligations.FeedbackValueFollowsDelta : Prop :=
  ∀ (c : Config) (r : Rate) (pst : PumpState), c.legal = true →
    (pst = .closed ∨ pst = .fill → ∀ d, fbComputeAt c pst r d = (c.at r).nom) ∧
    (pst = .running ∨ pst = .drain →
      ∃ top half : Int, ShiftedBy (c.at r).fbShift (2 ^ c.rbLog2 * 2 ^ c.sofShift) top ∧ FloorOf top 1 half ∧
        (∀ d, ∃ v : Int, ShiftedBy (c.at r).fbShift d v ∧
          fbComputeAt c pst r d = max ((c.at r).fbMin : Int) (min (c.at r).fbMax ((c.at r).nom + v - half))) ∧
        (∀ d d', d ≤ d' → fbComputeAt c pst r d ≤ fbComputeAt c pst r d') ∧
        (∀ d, (c.at r).fbMin ≤ fbComputeAt c pst r d ∧ fbComputeAt c pst r d ≤ (c.at r).fbMax) ∧
        fbComputeAt c pst r 0 = max ((c.at r).fbMin : Int) ((c.at r).nom - half) ∧
        (1 ≤ (c.at r).fbShift → fbComputeAt c pst r (2 ^ c.rbLog2 * 2 ^ c.sofShift / 2) = (c.at r).nom))

/-- SOF (R224): away from a boundary it only counts. At a boundary it computes the value from the uncleared `delta`, clears
`delta`, overwrites an unsent value with FBLOST, and sends at once when the endpoint is free. -/
def Obligations.SofCountsAndReports : Prop :=
  ∀ s : State, s.Inv →
    (s.sofcnt + 1 ≠ 2 ^ s.cfg.sofShift → exec .sof s = .next { s with sofcnt := s.sofcnt + 1 }) ∧
    (s.sofcnt + 1 = 2 ^ s.cfg.sofShift →
      ∃ v : BitVec 24, (v.toNat : Int) = fbComputeAt s.cfg s.pst s.rate s.delta.toNat ∧
        (s.fbReady = true → ∃ n : BitVec 32, CountedUp s.cntFblost n 1 ∧
          exec .sof s = .next { s with
            sofcnt := 0, fbValue := v, delta := 0, pend := s.pend ||| 0x10, cntFblost := n }) ∧
        (s.fbReady = false → s.epFree = false →
          exec .sof s = .next { s with sofcnt := 0, fbValue := v, delta := 0, fbReady := true }) ∧
        (s.fbReady = false → s.epFree = true →
          exec .sof s = .next { s with
            sofcnt := 0, fbValue := v, delta := 0, epFree := false,
            outputs := s.outputs ++
              [.fbSend (BitVec.ofNat 8 v.toNat) (BitVec.ofNat 8 (v.toNat / 256)) (BitVec.ofNat 8 (v.toNat / 65536))] }))

/-- One report per `2^SOF_SHIFT` ticks (R224): from a count of 0, fewer ticks only count, and the `2^SOF_SHIFT`-th is the
boundary, whose value is computed from the state the ticks started in. -/
def Obligations.ReportEveryPeriod : Prop :=
  ∀ s : State, s.Inv → s.sofcnt = 0 →
    (∀ n < 2 ^ s.cfg.sofShift, execAll (List.replicate n .sof) s = .next { s with sofcnt := n }) ∧
    ∃ t, execAll (List.replicate (2 ^ s.cfg.sofShift) .sof) s = .next t ∧ t.sofcnt = 0 ∧ t.delta = 0 ∧
      (t.fbValue.toNat : Int) = fbComputeAt s.cfg s.pst s.rate s.delta.toNat ∧ (t.fbReady = true ∨ t.epFree = false)

/-- FB_DONE (R232, R62): the endpoint is free; a waiting value is sent at once, its three bytes least significant first. -/
def Obligations.FbDoneFreesTheEndpoint : Prop :=
  ∀ s : State,
    (s.fbReady = false → exec .fbDone s = .next { s with epFree := true }) ∧
    (s.fbReady = true → exec .fbDone s = .next { s with
      fbReady := false, epFree := false,
      outputs := s.outputs ++
        [.fbSend (BitVec.ofNat 8 s.fbValue.toNat) (BitVec.ofNat 8 (s.fbValue.toNat / 256))
          (BitVec.ofNat 8 (s.fbValue.toNat / 65536))] })

/-! ## Pump and stream control (45_pump_control.md) -/

/-- PUMP with a whole chunk in the consumer's view runs the pipeline whatever the view draw (R252, R253), and changes only
what the rule lists. -/
def Obligations.PumpRunsThePipeline : Prop :=
  ∀ (s : State) (h : BitVec 1), s.Inv → s.pst ≠ .closed → s.chunkBytes ≤ s.countC →
    s.pumpShaped.codes.length = s.cfg.outFrames * s.cfg.nch ∧
    ∃ k ≤ s.lagC, ∃ t, exec (.pump h) s = .next t ∧ PumpRan s t k h ∧ PumpKeeps s t

/-- PUMP follows its view (R252, R254): outside CLOSED, for the draw taken, it runs the pipeline exactly when the refreshed
view shows a whole chunk; otherwise it consumes and writes nothing and raises UNDERRUN in RUNNING only. -/
def Obligations.PumpRunsOrLeavesEverything : Prop :=
  ∀ (s : State) (h : BitVec 1), s.Inv → s.pst ≠ .closed →
    ∃ k ≤ s.lagC, ∃ t, exec (.pump h) s = .next t ∧
      (s.chunkBytes ≤ s.countC + k → PumpRan s t k h ∧ PumpKeeps s t) ∧
      (s.countC + k < s.chunkBytes → ∃ n : BitVec 32, CountedUp s.cntUnderrun n (if s.pst = .running then 1 else 0) ∧
        t = { s with
          headCv := (s.headCv + k) % s.cfg.rbSize, draws := t.draws, cntUnderrun := n,
          pend := if s.pst = .running then s.pend ||| 0x01 else s.pend })

/-- PUMP in CLOSED has no effect at all (R252). -/
def Obligations.PumpInClosedDoesNothing : Prop :=
  ∀ (s : State) (h : BitVec 1), s.pst = .closed → exec (.pump h) s = .next s

/-- What a PUMP that runs writes, with the stages composed as R252 has them: the gained frames of the chunk through the
upsampler (R180 to R184: output frame `n*U + p`, clamped to 32 bits) into each channel's shaper row in turn (R203), the codes
to the elements `m*NCH + c` of the half, the backlog the newest samples (R183), and one saturation event per clamp (R184,
R202). A PUMP runs when the view it leaves shows a whole chunk, whatever its view draw added. -/
def Obligations.PumpStagesCompose : Prop :=
  ∀ (s t : State) (h : BitVec 1), s.Inv → s.pst ≠ .closed → exec (.pump h) s = .next t →
    (s.chunkBytes : Int) ≤ ((t.headCv : Int) - s.tail) % s.cfg.rbSize →
    ∃ (up : Nat → Nat → Int) (row : Nat → Nat → List (BitVec 32)), PumpStages s t h up row

/-- The codes a PUMP writes are duty codes: the codes of the pipeline, and with them every element of the half after any PUMP
that runs (the view it leaves shows a whole chunk, whatever its view draw added), lie in `[1, 2^PWM_BITS - 1]`, zero-extended
to 16 bits (20_memory.md R63, 30_encoding.md R102, 43_noise_shaper.md R201). -/
def Obligations.PumpWritesDutyCodes : Prop :=
  ∀ s : State, s.Inv → s.pst ≠ .closed →
    (∀ q ∈ s.pumpShaped.codes, 1 ≤ q ∧ q ≤ 2 ^ s.cfg.pwmBits - 1) ∧
    ∀ (t : State) (h : BitVec 1), exec (.pump h) s = .next t →
      (s.chunkBytes : Int) ≤ ((t.headCv : Int) - s.tail) % s.cfg.rbSize →
      ∀ i < s.cfg.outFrames * s.cfg.nch,
        1 ≤ (t.outElem h.toNat i).toNat ∧ (t.outElem h.toNat i).toNat ≤ 2 ^ s.cfg.pwmBits - 1

/-- OUT_DONE (R256): DRAIN enters CLOSED, every other state ignores it. -/
def Obligations.OutDoneClosesADrainingStream : Prop :=
  ∀ s : State,
    (s.pst = .drain → exec .outDone s = .next { s with
      pst := .closed, fmt := .none, filled := 0, outEn := false, pend := s.pend ||| 0x80 }) ∧
    (s.pst ≠ .drain → exec .outDone s = .next s)

/-- A streaming CONFIGURE in CLOSED or FILL sets the stream up and leaves FILL (R260, R262, R264); STATECHG only from
CLOSED. -/
def Obligations.ConfigureSetsUpAStream : Prop :=
  ∀ (s : State) (f : Fmt) (r : Rate), f ≠ .none → s.pst = .closed ∨ s.pst = .fill →
    exec (.configure f r) s = .next { s with
      fmt := f, rate := r, head := 0, tail := 0, tailPv := 0, headCv := 0
      bl := List.replicate s.cfg.nch (List.replicate (s.cfg.phaseLen - 1) 0)
      nse := List.replicate s.cfg.nch (List.replicate s.cfg.nsOrder 0)
      filled := 0, delta := 0, sofcnt := 0, fbReady := false
      fbValue := BitVec.ofNat 24 (s.cfg.at r).nom
      pst := .fill
      pend := if s.pst = .closed then s.pend ||| 0x80 else s.pend }

/-- A streaming CONFIGURE in RUNNING or DRAIN raises CFGREJ and changes nothing else (R263). -/
def Obligations.ConfigureIsRefusedWhilePlaying : Prop :=
  ∀ (s : State) (f : Fmt) (r : Rate), f ≠ .none → s.pst = .running ∨ s.pst = .drain →
    exec (.configure f r) s = .next { s with pend := s.pend ||| 0x40 }

/-- CONFIGURE NONE (R261): RUNNING enters DRAIN and keeps everything, FILL enters CLOSED, CLOSED and DRAIN ignore it; the
rate is ignored (30_encoding.md R97). -/
def Obligations.ConfigureNoneStopsTheStream : Prop :=
  ∀ (s : State) (r : Rate),
    (s.pst = .running → exec (.configure .none r) s = .next { s with pst := .drain, pend := s.pend ||| 0x80 }) ∧
    (s.pst = .fill → exec (.configure .none r) s = .next { s with
      pst := .closed, fmt := .none, filled := 0, outEn := false, pend := s.pend ||| 0x80 }) ∧
    (s.pst = .closed ∨ s.pst = .drain → exec (.configure .none r) s = .next s)

/-- Every transition of `pst` (R251): no command makes another, and each raises STATECHG. -/
def Obligations.OnlyTheListedTransitions : Prop :=
  ∀ (i : Instr) (s t : State), exec i s = .next t → t.pst ≠ s.pst →
    t.pend.getLsbD 7 = true ∧
    ((s.pst = .closed ∧ t.pst = .fill ∧ ∃ f r, i = .configure f r ∧ f ≠ .none ∧ t.fmt = f) ∨
     (s.pst = .fill ∧ t.pst = .closed ∧ (∃ r, i = .configure .none r) ∧ t.fmt = .none ∧ t.filled = 0 ∧ t.outEn = false) ∨
     (s.pst = .running ∧ t.pst = .drain ∧ (∃ r, i = .configure .none r) ∧ t.fmt = s.fmt ∧ t.outEn = s.outEn) ∨
     (s.pst = .fill ∧ t.pst = .running ∧ (∃ h, i = .pump h ∧ s.filled ||| (1#2 <<< h.toNat) = 3) ∧ t.outEn = true ∧ t.filled = 0) ∨
     (s.pst = .drain ∧ t.pst = .closed ∧ i = .outDone ∧ t.fmt = .none ∧ t.filled = 0 ∧ t.outEn = false))

/-- SET_MUTE (R270): it writes `mute` and nothing else, in every state; with mute set every gained sample is 0 whatever
`atten` is, and clearing it restores the gain `GAIN[atten]`. -/
def Obligations.SetMuteWritesMute : Prop :=
  ∀ (s : State) (m : Bool), ∃ t, exec (.setMute m) s = .next t ∧ t = { s with mute := m } ∧
    (m = true → ∀ (b : List Byte), ∀ x ∈ t.frames b, ∀ v ∈ x, v = 0) ∧
    (m = false → t.gainStep = s.cfg.gain.getD s.atten 0)

/-- SET_ATTEN (R271): it writes `min(s, ATTEN_MAX)` to `atten` and nothing else, in every state; a step of ATTEN_MAX or more
gives the gain 0. -/
def Obligations.SetAttenClampsTheStep : Prop :=
  ∀ (s : State) (step : BitVec 8), ∃ t, exec (.setAtten step) s = .next t ∧
    t = { s with atten := if step.toNat ≤ s.cfg.attenMax then step.toNat else s.cfg.attenMax } ∧
    (s.cfg.legal = true → s.cfg.attenMax ≤ step.toNat → t.gainStep = 0)

/-! ## CSRs, events and interrupt request (46_csr_ops.md, 60_exceptions.md) -/

/-- NOP (R290): the all-zero word, legal on every port, leaves the state unchanged; a word with opcode 0 and any other bit
set is illegal on every port. -/
def Obligations.NopDoesNothing : Prop :=
  (∀ s : State, exec .nop s = .next s) ∧ (∀ p : Port, decode p 0 [] = .ok .nop) ∧
  ∀ (p : Port) (w : Word), w ≠ 0 → w.toNat / 2 ^ 28 = 0 → decode p w [] = .error .reservedBits

/-- CSR_READ (R291): at a mapped address it responds with the register and changes nothing; at an unmapped address it
raises ILLEGAL and responds 0. The mapped addresses are 0x00 to 0x0D and 0x10 to 0x14. -/
def Obligations.CsrReadAnswersTheRegister : Prop :=
  ∀ (s : State) (a : BitVec 8),
    (a.toNat ≤ 0x0D ∨ (0x10 ≤ a.toNat ∧ a.toNat ≤ 0x14) → ∃ v, s.csrValue? a = some v ∧
      exec (.csrRead a) s = .next { s with outputs := s.outputs ++ [.response .control v] }) ∧
    (a.toNat = 0x0E ∨ a.toNat = 0x0F ∨ 0x15 ≤ a.toNat →
      exec (.csrRead a) s = .next { s with
        pend := s.pend ||| 0x20, outputs := s.outputs ++ [.response .control 0] })

/-- Every CSR has the value of R294, and the reference profile reads the parameter registers as R294 gives them. -/
def Obligations.CsrValuesAreAssembledFromTheirFields : Prop :=
  ((State.resetOf Config.reference).csrValue? 0x01 = some 0x0004D066 ∧
    (State.resetOf Config.reference).csrValue? 0x02 = some 0x00020204 ∧
    (State.resetOf Config.reference).csrValue? 0x03 = some 0x00020004) ∧
  ∀ s : State, s.Inv →
    (s.csrValue? 0x00).map BitVec.toNat = some 1 ∧
    (s.csrValue? 0x01).map BitVec.toNat = some (s.cfg.rbLog2 ||| s.cfg.sofShift <<< 5 ||| s.cfg.pwmBits <<< 9
      ||| s.cfg.nsOrder <<< 14 ||| s.cfg.nch <<< 17) ∧
    (s.csrValue? 0x02).map BitVec.toNat = some (s.cfg.normal.u ||| s.cfg.double.u <<< 8 ||| s.cfg.phaseLen <<< 16) ∧
    (s.csrValue? 0x03).map BitVec.toNat = some (s.cfg.outFrames ||| s.cfg.attenMax <<< 16) ∧
    (s.csrValue? 0x04).map BitVec.toNat = some (s.pst.code.toNat ||| s.filled.toNat <<< 2 ||| s.outEn.toNat <<< 4
      ||| s.fbReady.toNat <<< 5 ||| s.epFree.toNat <<< 6 ||| s.irq.toNat <<< 7) ∧
    (s.csrValue? 0x05).map BitVec.toNat = some (s.fmt.code.toNat ||| s.rate.code.toNat <<< 3) ∧
    (s.csrValue? 0x06).map BitVec.toNat = some (s.mute.toNat ||| s.atten <<< 8) ∧
    (s.csrValue? 0x07).map BitVec.toNat = some (s.head ||| s.tail <<< 16) ∧
    (s.csrValue? 0x08).map BitVec.toNat = some (s.count ||| s.space <<< 16) ∧
    (s.csrValue? 0x09).map BitVec.toNat = some s.fbValue.toNat ∧
    (s.csrValue? 0x0A).map BitVec.toNat = some s.delta.toNat ∧
    (s.csrValue? 0x0B).map BitVec.toNat = some s.sofcnt ∧
    (s.csrValue? 0x0C).map BitVec.toNat = some (s.pend.toNat ||| s.fbReady.toNat <<< 8) ∧
    (s.csrValue? 0x0D).map BitVec.toNat = some s.ie.toNat ∧
    [0x10, 0x11, 0x12, 0x13, 0x14].map s.csrValue? =
      [some s.cntOverflow, some s.cntUnderrun, some s.cntMalformed, some s.cntSat, some s.cntFblost]

/-- SET_IE (R292): it writes `ie` and nothing else, and so the interrupt-request level becomes that of the new mask over the
pending bits as they are, FBRDY at bit 8. -/
def Obligations.SetIeWritesTheEnables : Prop :=
  ∀ (s : State) (m : BitVec 9), ∃ t, exec (.setIe m) s = .next t ∧ t = { s with ie := t.ie } ∧
    (∀ i < 9, t.ie.getLsbD i = m.getLsbD i) ∧
    (t.irq = true ↔ (∃ i < 8, s.pend.getLsbD i = true ∧ m.getLsbD i = true) ∨ (s.fbReady = true ∧ m.getLsbD 8 = true))

/-- ACK clears the pending bits its mask names and changes nothing else (R293). -/
def Obligations.AckClearsThePendingBits : Prop :=
  ∀ (s : State) (m : BitVec 8), ∃ t, exec (.ack m) s = .next t ∧ t = { s with pend := t.pend } ∧
    ∀ i < 8, t.pend.getLsbD i = (s.pend.getLsbD i && !m.getLsbD i)

/-- The interrupt-request level (R313): the OR of the enabled pending bits and of `fb_ready` under `ie[8]`; `STATUS[7]`
reads it. -/
def Obligations.IrqIsTheEnabledPendingLevel : Prop :=
  ∀ s : State,
    (s.irq = true ↔
      (∃ i < 8, s.pend.getLsbD i = true ∧ s.ie.getLsbD i = true) ∨ (s.fbReady = true ∧ s.ie.getLsbD 8 = true)) ∧
    ∃ v, s.csrValue? 0x04 = some v ∧ v.getLsbD 7 = s.irq

/-- Raising an event sets its pending bit, counts in its own counter only, and changes nothing else (R311, R312): it saves
no state, changes no mode and masks nothing (R316). -/
def Obligations.RaiseRecordsTheEvent : Prop :=
  ∀ (e : Event) (n : Nat) (s : State),
    let t := raise e n s
    (∀ i < 8, t.pend.getLsbD i = (s.pend.getLsbD i || i == e.code)) ∧
    CountedUp s.cntUnderrun t.cntUnderrun (if e = .underrun then 1 else 0) ∧
    CountedUp s.cntOverflow t.cntOverflow (if e = .overflow then 1 else 0) ∧
    CountedUp s.cntMalformed t.cntMalformed (if e = .malformed then 1 else 0) ∧
    CountedUp s.cntSat t.cntSat (if e = .sat then n else 0) ∧
    CountedUp s.cntFblost t.cntFblost (if e = .fblost then 1 else 0) ∧
    t = { s with
      pend := t.pend, cntUnderrun := t.cntUnderrun, cntOverflow := t.cntOverflow, cntMalformed := t.cntMalformed,
      cntSat := t.cntSat, cntFblost := t.cntFblost }

/-- No command lowers a counter (R312), and only ACK clears a pending bit (10_state.md R32). -/
def Obligations.CountersNeverFall : Prop :=
  ∀ (i : Instr) (s t : State), exec i s = .next t →
    s.cntUnderrun.toNat ≤ t.cntUnderrun.toNat ∧ s.cntOverflow.toNat ≤ t.cntOverflow.toNat ∧
    s.cntMalformed.toNat ≤ t.cntMalformed.toNat ∧ s.cntSat.toNat ≤ t.cntSat.toNat ∧
    s.cntFblost.toNat ≤ t.cntFblost.toNat ∧
    ((∀ m, i ≠ .ack m) → ∀ j < 8, s.pend.getLsbD j = true → t.pend.getLsbD j = true)

/-- Who writes what (R331): outside a set-up only port P's commands write the ring storage, `head`, `tail_pv` and the
feedback registers, only port C's write `tail`, `head_cv`, the filter and shaper state and the output buffer, and only
port K's write `rate`, `mute`, `atten` and `ie`. -/
def Obligations.EachPortWritesItsOwnState : Prop :=
  ∀ (i : Instr) (s t : State), exec i s = .next t →
    (.producer ∉ i.ports → t.mem = s.mem) ∧
    (.producer ∉ i.ports → (∀ f r, i = .configure f r → f = .none ∨ s.pst = .running ∨ s.pst = .drain) →
      t.head = s.head ∧ t.tailPv = s.tailPv ∧ t.delta = s.delta ∧ SameReport s t) ∧
    (.consumer ∉ i.ports → t.outBuf = s.outBuf) ∧
    (.consumer ∉ i.ports → (∀ f r, i = .configure f r → f = .none ∨ s.pst = .running ∨ s.pst = .drain) →
      t.tail = s.tail ∧ t.headCv = s.headCv ∧ SameFilter s t) ∧
    (.control ∉ i.ports → t.rate = s.rate ∧ t.mute = s.mute ∧ t.atten = s.atten ∧ t.ie = s.ie) ∧
    (i.ports = [.producer] → t.fmt = s.fmt ∧ t.pst = s.pst ∧ t.filled = s.filled ∧ t.outEn = s.outEn)

/-- What a transaction gives out (30_encoding.md R98, 44_feedback.md R231): a PUT and a CSR_READ one response on their own
port, SOF and FB_DONE at most one feedback report, every other command nothing. -/
def Obligations.OutputsOfEachCommand : Prop :=
  ∀ (i : Instr) (s t : State), exec i s = .next t →
    ∃ out, t.outputs = s.outputs ++ out ∧
      ((∃ len b, i = .put len b) → ∃ v, out = [.response .producer v]) ∧
      ((∃ a, i = .csrRead a) → ∃ v, out = [.response .control v]) ∧
      (i = .sof ∨ i = .fbDone → out = [] ∨ ∃ b0 b1 b2, out = [.fbSend b0 b1 b2]) ∧
      ((∀ len b, i ≠ .put len b) → (∀ a, i ≠ .csrRead a) → i ≠ .sof → i ≠ .fbDone → out = [])

/-- The commands that store nothing leave every byte of the ring storage and of the output buffer: all but PUT and PUMP
(10_state.md R22, R35). -/
def Obligations.OtherCommandsLeaveMemory : Prop :=
  ∀ (i : Instr) (s t : State), (∀ len b, i ≠ .put len b) → (∀ h, i ≠ .pump h) → exec i s = .next t →
    (∀ slot, t.ringRead slot = s.ringRead slot) ∧ ∀ a, t.outRead a = s.outRead a
end

