-- ==== Sys2Proof/Laws/Arith.lean ====
section
/-! SUPPORT. The arithmetic of 00_scope.md R12: ring distances, saturations, registers. -/

namespace Sys2Proof.Machine

/-! ## Ring distances -/

/-- On indices below `m`, the Euclidean remainder is the plain difference, with one turn added where it is negative. -/
theorem modDist_eq {m a b : Nat} (ha : a < m) (hb : b < m) :
    modDist m a b = if b ≤ a then a - b else a + m - b := by
  unfold modDist
  split
  · rw [Int.emod_eq_of_lt (by omega) (by omega)]; omega
  · rw [← Int.add_emod_right, Int.emod_eq_of_lt (by omega) (by omega)]; omega

theorem modDist_lt {m : Nat} (a b : Nat) (hm : 0 < m) : modDist m a b < m := by
  unfold modDist
  have h1 := Int.emod_nonneg ((a : Int) - b) (b := (m : Int)) (by omega)
  have h2 := Int.emod_lt_of_pos ((a : Int) - b) (b := (m : Int)) (by omega)
  omega

@[simp] theorem modDist_self (m a : Nat) : modDist m a a = 0 := by simp [modDist]

/-- Where `b` is `d` behind `a`, going `d` forward from `b` reaches `a`. -/
theorem add_modDist {m a b : Nat} (ha : a < m) (hb : b < m) : (b + modDist m a b) % m = a := by
  rw [modDist_eq ha hb]
  split
  · rw [Nat.mod_eq_of_lt] <;> omega
  · have : b + (a + m - b) = a + m := by omega
    rw [this, Nat.add_mod_right, Nat.mod_eq_of_lt ha]

/-- One reduction of an index that passed the end of the ring. -/
theorem add_mod_ring {m a k : Nat} (ha : a < m) (hk : k ≤ m) : (a + k) % m = if a + k < m then a + k else a + k - m := by
  split
  · exact Nat.mod_eq_of_lt ‹_›
  · rw [Nat.mod_eq_sub_mod (by omega), Nat.mod_eq_of_lt (by omega)]

/-- Moving the leading index `k` forward adds `k` to its distance while it does not lap the trailing one. -/
theorem modDist_add_left {m a b k : Nat} (ha : a < m) (hb : b < m) (hk : modDist m a b + k < m) :
    modDist m ((a + k) % m) b = modDist m a b + k := by
  have hlt : (a + k) % m < m := Nat.mod_lt _ (by omega)
  rw [modDist_eq hlt hb]
  rw [modDist_eq ha hb] at *
  rw [add_mod_ring ha (by split at hk <;> omega)] at *
  split at hk <;> split <;> split <;> omega

/-- Moving the trailing index `k` forward takes `k` from the distance while it does not pass the leading one. -/
theorem modDist_add_right {m a b k : Nat} (ha : a < m) (hb : b < m) (hk : k ≤ modDist m a b) :
    modDist m a ((b + k) % m) = modDist m a b - k := by
  have hd := modDist_lt a b (m := m) (by omega)
  have hlt : (b + k) % m < m := Nat.mod_lt _ (by omega)
  rw [modDist_eq ha hlt]
  rw [modDist_eq ha hb] at *
  rw [add_mod_ring hb (by omega)] at *
  split at hk <;> split <;> split <;> omega

/-! ## Saturations and registers -/

theorem sat32_range (v : Int) : -2147483648 ≤ sat 32 v ∧ sat 32 v ≤ 2147483647 := by
  unfold sat clamp; norm_num; split <;> [omega; split <;> omega]

/-- `sat_32` in closed form (00_scope.md R12). -/
theorem sat32_eq_max_min (v : Int) : sat 32 v = max (-2 ^ 31) (min (2 ^ 31 - 1) v) := by
  unfold sat clamp; split <;> [skip; split] <;> norm_num at * <;> omega

theorem sat32_of_range {v : Int} (h1 : -2147483648 ≤ v) (h2 : v ≤ 2147483647) : sat 32 v = v := by
  unfold sat clamp; norm_num; split <;> [omega; split <;> omega]

/-- A signed 32-bit register holds every integer of its range. -/
theorem toReg_toInt {x : Int} (h1 : -2147483648 ≤ x) (h2 : x ≤ 2147483647) : (toReg x).toInt = x := by
  unfold toReg; rw [BitVec.toInt_ofInt, Int.bmod_eq_of_le] <;> norm_num <;> omega

theorem reg_range (r : BitVec 32) : -2147483648 ≤ r.toInt ∧ r.toInt ≤ 2147483647 := by
  have h1 := r.le_toInt; have h2 := r.toInt_lt; norm_num at h1 h2; omega

@[simp] theorem toReg_of_toInt (r : BitVec 32) : toReg r.toInt = r := BitVec.ofInt_toInt

/-- `usat_32` of a sum, as a number. -/
theorem addSat32_toNat (r : BitVec 32) (n : Nat) : (addSat32 r n).toNat = min (r.toNat + n) (2 ^ 32 - 1) := by
  unfold addSat32 usat; have := r.isLt; simp only [BitVec.toNat_ofNat]; split <;> omega

theorem addSat32_ge (r : BitVec 32) (n : Nat) : r.toNat ≤ (addSat32 r n).toNat := by
  rw [addSat32_toNat]; have := r.isLt; omega

theorem counterAfter_ge (e own : Event) (info : Nat) (r : BitVec 32) : r.toNat ≤ (counterAfter e own info r).toNat := by
  unfold counterAfter; split
  · exact addSat32_ge _ _
  · exact Nat.le_refl _

/-- A draw lies in `[0, lag]` (20_memory.md R71). -/
theorem drawView_le (lag n : Nat) : drawView lag n ≤ lag := by
  cases lag with
  | zero => simp [drawView]
  | succ l => have := Nat.mod_lt (Config.viewDraw n) (show 0 < l + 2 by omega); simp only [drawView]; omega

@[simp] theorem drawView_zero (n : Nat) : drawView 0 n = 0 := rfl

theorem hasLength_iff {α : Type} (l : List α) (n : Nat) : hasLength l n = true ↔ l.length = n := by
  induction l generalizing n with
  | nil => cases n <;> simp [hasLength]
  | cons a as ih => cases n <;> simp [hasLength, ih]

end Sys2Proof.Machine
end

