-- ==== Sys2Proof/Laws/State.lean ====
section
/-! SUPPORT. One lemma per field and named update of the state: what the update puts there, or that it leaves it. -/

namespace Sys2Proof.Machine

/-! ## `raise` -/

@[simp] theorem counterAfter_ne {e own : Event} (h : e ≠ own) (n : Nat) (r : BitVec 32) : counterAfter e own n r = r :=
  if_neg h

@[simp] theorem counterAfter_same (e : Event) (n : Nat) (r : BitVec 32) :
    counterAfter e e n r = addSat32 r (if e = .sat then n else 1) := if_pos rfl

@[simp] theorem raise_cfg (e : Event) (info : Nat) (s : State) : (raise e info s).cfg = s.cfg := rfl
@[simp] theorem raise_mem (e : Event) (info : Nat) (s : State) : (raise e info s).mem = s.mem := rfl
@[simp] theorem raise_head (e : Event) (info : Nat) (s : State) : (raise e info s).head = s.head := rfl
@[simp] theorem raise_tail (e : Event) (info : Nat) (s : State) : (raise e info s).tail = s.tail := rfl
@[simp] theorem raise_tailPv (e : Event) (info : Nat) (s : State) : (raise e info s).tailPv = s.tailPv := rfl
@[simp] theorem raise_headCv (e : Event) (info : Nat) (s : State) : (raise e info s).headCv = s.headCv := rfl
@[simp] theorem raise_fmt (e : Event) (info : Nat) (s : State) : (raise e info s).fmt = s.fmt := rfl
@[simp] theorem raise_rate (e : Event) (info : Nat) (s : State) : (raise e info s).rate = s.rate := rfl
@[simp] theorem raise_bl (e : Event) (info : Nat) (s : State) : (raise e info s).bl = s.bl := rfl
@[simp] theorem raise_nse (e : Event) (info : Nat) (s : State) : (raise e info s).nse = s.nse := rfl
@[simp] theorem raise_mute (e : Event) (info : Nat) (s : State) : (raise e info s).mute = s.mute := rfl
@[simp] theorem raise_atten (e : Event) (info : Nat) (s : State) : (raise e info s).atten = s.atten := rfl
@[simp] theorem raise_pst (e : Event) (info : Nat) (s : State) : (raise e info s).pst = s.pst := rfl
@[simp] theorem raise_filled (e : Event) (info : Nat) (s : State) : (raise e info s).filled = s.filled := rfl
@[simp] theorem raise_outEn (e : Event) (info : Nat) (s : State) : (raise e info s).outEn = s.outEn := rfl
@[simp] theorem raise_delta (e : Event) (info : Nat) (s : State) : (raise e info s).delta = s.delta := rfl
@[simp] theorem raise_sofcnt (e : Event) (info : Nat) (s : State) : (raise e info s).sofcnt = s.sofcnt := rfl
@[simp] theorem raise_fbValue (e : Event) (info : Nat) (s : State) : (raise e info s).fbValue = s.fbValue := rfl
@[simp] theorem raise_fbReady (e : Event) (info : Nat) (s : State) : (raise e info s).fbReady = s.fbReady := rfl
@[simp] theorem raise_epFree (e : Event) (info : Nat) (s : State) : (raise e info s).epFree = s.epFree := rfl
@[simp] theorem raise_pend (e : Event) (info : Nat) (s : State) : (raise e info s).pend = s.pend ||| e.bit := rfl
@[simp] theorem raise_ie (e : Event) (info : Nat) (s : State) : (raise e info s).ie = s.ie := rfl
@[simp] theorem raise_cntOverflow (e : Event) (info : Nat) (s : State) : (raise e info s).cntOverflow = counterAfter e .overflow info s.cntOverflow := rfl
@[simp] theorem raise_cntUnderrun (e : Event) (info : Nat) (s : State) : (raise e info s).cntUnderrun = counterAfter e .underrun info s.cntUnderrun := rfl
@[simp] theorem raise_cntMalformed (e : Event) (info : Nat) (s : State) : (raise e info s).cntMalformed = counterAfter e .malformed info s.cntMalformed := rfl
@[simp] theorem raise_cntSat (e : Event) (info : Nat) (s : State) : (raise e info s).cntSat = counterAfter e .sat info s.cntSat := rfl
@[simp] theorem raise_cntFblost (e : Event) (info : Nat) (s : State) : (raise e info s).cntFblost = counterAfter e .fblost info s.cntFblost := rfl
@[simp] theorem raise_outBuf (e : Event) (info : Nat) (s : State) : (raise e info s).outBuf = s.outBuf := rfl
@[simp] theorem raise_input (e : Event) (info : Nat) (s : State) : (raise e info s).input = s.input := rfl
@[simp] theorem raise_outputs (e : Event) (info : Nat) (s : State) : (raise e info s).outputs = s.outputs := rfl
@[simp] theorem raise_draws (e : Event) (info : Nat) (s : State) : (raise e info s).draws = s.draws := rfl
@[simp] theorem raise_resets (e : Event) (info : Nat) (s : State) : (raise e info s).resets = s.resets := rfl

/-! ## `clearPending` -/

@[simp] theorem clearPending_cfg (m : BitVec 8) (s : State) : (clearPending m s).cfg = s.cfg := rfl
@[simp] theorem clearPending_mem (m : BitVec 8) (s : State) : (clearPending m s).mem = s.mem := rfl
@[simp] theorem clearPending_head (m : BitVec 8) (s : State) : (clearPending m s).head = s.head := rfl
@[simp] theorem clearPending_tail (m : BitVec 8) (s : State) : (clearPending m s).tail = s.tail := rfl
@[simp] theorem clearPending_tailPv (m : BitVec 8) (s : State) : (clearPending m s).tailPv = s.tailPv := rfl
@[simp] theorem clearPending_headCv (m : BitVec 8) (s : State) : (clearPending m s).headCv = s.headCv := rfl
@[simp] theorem clearPending_fmt (m : BitVec 8) (s : State) : (clearPending m s).fmt = s.fmt := rfl
@[simp] theorem clearPending_rate (m : BitVec 8) (s : State) : (clearPending m s).rate = s.rate := rfl
@[simp] theorem clearPending_bl (m : BitVec 8) (s : State) : (clearPending m s).bl = s.bl := rfl
@[simp] theorem clearPending_nse (m : BitVec 8) (s : State) : (clearPending m s).nse = s.nse := rfl
@[simp] theorem clearPending_mute (m : BitVec 8) (s : State) : (clearPending m s).mute = s.mute := rfl
@[simp] theorem clearPending_atten (m : BitVec 8) (s : State) : (clearPending m s).atten = s.atten := rfl
@[simp] theorem clearPending_pst (m : BitVec 8) (s : State) : (clearPending m s).pst = s.pst := rfl
@[simp] theorem clearPending_filled (m : BitVec 8) (s : State) : (clearPending m s).filled = s.filled := rfl
@[simp] theorem clearPending_outEn (m : BitVec 8) (s : State) : (clearPending m s).outEn = s.outEn := rfl
@[simp] theorem clearPending_delta (m : BitVec 8) (s : State) : (clearPending m s).delta = s.delta := rfl
@[simp] theorem clearPending_sofcnt (m : BitVec 8) (s : State) : (clearPending m s).sofcnt = s.sofcnt := rfl
@[simp] theorem clearPending_fbValue (m : BitVec 8) (s : State) : (clearPending m s).fbValue = s.fbValue := rfl
@[simp] theorem clearPending_fbReady (m : BitVec 8) (s : State) : (clearPending m s).fbReady = s.fbReady := rfl
@[simp] theorem clearPending_epFree (m : BitVec 8) (s : State) : (clearPending m s).epFree = s.epFree := rfl
@[simp] theorem clearPending_pend (m : BitVec 8) (s : State) : (clearPending m s).pend = s.pend &&& ~~~m := rfl
@[simp] theorem clearPending_ie (m : BitVec 8) (s : State) : (clearPending m s).ie = s.ie := rfl
@[simp] theorem clearPending_cntOverflow (m : BitVec 8) (s : State) : (clearPending m s).cntOverflow = s.cntOverflow := rfl
@[simp] theorem clearPending_cntUnderrun (m : BitVec 8) (s : State) : (clearPending m s).cntUnderrun = s.cntUnderrun := rfl
@[simp] theorem clearPending_cntMalformed (m : BitVec 8) (s : State) : (clearPending m s).cntMalformed = s.cntMalformed := rfl
@[simp] theorem clearPending_cntSat (m : BitVec 8) (s : State) : (clearPending m s).cntSat = s.cntSat := rfl
@[simp] theorem clearPending_cntFblost (m : BitVec 8) (s : State) : (clearPending m s).cntFblost = s.cntFblost := rfl
@[simp] theorem clearPending_outBuf (m : BitVec 8) (s : State) : (clearPending m s).outBuf = s.outBuf := rfl
@[simp] theorem clearPending_input (m : BitVec 8) (s : State) : (clearPending m s).input = s.input := rfl
@[simp] theorem clearPending_outputs (m : BitVec 8) (s : State) : (clearPending m s).outputs = s.outputs := rfl
@[simp] theorem clearPending_draws (m : BitVec 8) (s : State) : (clearPending m s).draws = s.draws := rfl
@[simp] theorem clearPending_resets (m : BitVec 8) (s : State) : (clearPending m s).resets = s.resets := rfl

/-! ## `respond` -/

@[simp] theorem respond_cfg (p : Port) (v : Word) (s : State) : (respond p v s).cfg = s.cfg := rfl
@[simp] theorem respond_mem (p : Port) (v : Word) (s : State) : (respond p v s).mem = s.mem := rfl
@[simp] theorem respond_head (p : Port) (v : Word) (s : State) : (respond p v s).head = s.head := rfl
@[simp] theorem respond_tail (p : Port) (v : Word) (s : State) : (respond p v s).tail = s.tail := rfl
@[simp] theorem respond_tailPv (p : Port) (v : Word) (s : State) : (respond p v s).tailPv = s.tailPv := rfl
@[simp] theorem respond_headCv (p : Port) (v : Word) (s : State) : (respond p v s).headCv = s.headCv := rfl
@[simp] theorem respond_fmt (p : Port) (v : Word) (s : State) : (respond p v s).fmt = s.fmt := rfl
@[simp] theorem respond_rate (p : Port) (v : Word) (s : State) : (respond p v s).rate = s.rate := rfl
@[simp] theorem respond_bl (p : Port) (v : Word) (s : State) : (respond p v s).bl = s.bl := rfl
@[simp] theorem respond_nse (p : Port) (v : Word) (s : State) : (respond p v s).nse = s.nse := rfl
@[simp] theorem respond_mute (p : Port) (v : Word) (s : State) : (respond p v s).mute = s.mute := rfl
@[simp] theorem respond_atten (p : Port) (v : Word) (s : State) : (respond p v s).atten = s.atten := rfl
@[simp] theorem respond_pst (p : Port) (v : Word) (s : State) : (respond p v s).pst = s.pst := rfl
@[simp] theorem respond_filled (p : Port) (v : Word) (s : State) : (respond p v s).filled = s.filled := rfl
@[simp] theorem respond_outEn (p : Port) (v : Word) (s : State) : (respond p v s).outEn = s.outEn := rfl
@[simp] theorem respond_delta (p : Port) (v : Word) (s : State) : (respond p v s).delta = s.delta := rfl
@[simp] theorem respond_sofcnt (p : Port) (v : Word) (s : State) : (respond p v s).sofcnt = s.sofcnt := rfl
@[simp] theorem respond_fbValue (p : Port) (v : Word) (s : State) : (respond p v s).fbValue = s.fbValue := rfl
@[simp] theorem respond_fbReady (p : Port) (v : Word) (s : State) : (respond p v s).fbReady = s.fbReady := rfl
@[simp] theorem respond_epFree (p : Port) (v : Word) (s : State) : (respond p v s).epFree = s.epFree := rfl
@[simp] theorem respond_pend (p : Port) (v : Word) (s : State) : (respond p v s).pend = s.pend := rfl
@[simp] theorem respond_ie (p : Port) (v : Word) (s : State) : (respond p v s).ie = s.ie := rfl
@[simp] theorem respond_cntOverflow (p : Port) (v : Word) (s : State) : (respond p v s).cntOverflow = s.cntOverflow := rfl
@[simp] theorem respond_cntUnderrun (p : Port) (v : Word) (s : State) : (respond p v s).cntUnderrun = s.cntUnderrun := rfl
@[simp] theorem respond_cntMalformed (p : Port) (v : Word) (s : State) : (respond p v s).cntMalformed = s.cntMalformed := rfl
@[simp] theorem respond_cntSat (p : Port) (v : Word) (s : State) : (respond p v s).cntSat = s.cntSat := rfl
@[simp] theorem respond_cntFblost (p : Port) (v : Word) (s : State) : (respond p v s).cntFblost = s.cntFblost := rfl
@[simp] theorem respond_outBuf (p : Port) (v : Word) (s : State) : (respond p v s).outBuf = s.outBuf := rfl
@[simp] theorem respond_input (p : Port) (v : Word) (s : State) : (respond p v s).input = s.input := rfl
@[simp] theorem respond_outputs (p : Port) (v : Word) (s : State) : (respond p v s).outputs = s.outputs ++ [.response p v] := rfl
@[simp] theorem respond_draws (p : Port) (v : Word) (s : State) : (respond p v s).draws = s.draws := rfl
@[simp] theorem respond_resets (p : Port) (v : Word) (s : State) : (respond p v s).resets = s.resets := rfl

/-! ## `enterClosed` -/

@[simp] theorem enterClosed_cfg (s : State) : (enterClosed s).cfg = s.cfg := rfl
@[simp] theorem enterClosed_mem (s : State) : (enterClosed s).mem = s.mem := rfl
@[simp] theorem enterClosed_head (s : State) : (enterClosed s).head = s.head := rfl
@[simp] theorem enterClosed_tail (s : State) : (enterClosed s).tail = s.tail := rfl
@[simp] theorem enterClosed_tailPv (s : State) : (enterClosed s).tailPv = s.tailPv := rfl
@[simp] theorem enterClosed_headCv (s : State) : (enterClosed s).headCv = s.headCv := rfl
@[simp] theorem enterClosed_fmt (s : State) : (enterClosed s).fmt = .none := rfl
@[simp] theorem enterClosed_rate (s : State) : (enterClosed s).rate = s.rate := rfl
@[simp] theorem enterClosed_bl (s : State) : (enterClosed s).bl = s.bl := rfl
@[simp] theorem enterClosed_nse (s : State) : (enterClosed s).nse = s.nse := rfl
@[simp] theorem enterClosed_mute (s : State) : (enterClosed s).mute = s.mute := rfl
@[simp] theorem enterClosed_atten (s : State) : (enterClosed s).atten = s.atten := rfl
@[simp] theorem enterClosed_pst (s : State) : (enterClosed s).pst = .closed := rfl
@[simp] theorem enterClosed_filled (s : State) : (enterClosed s).filled = 0 := rfl
@[simp] theorem enterClosed_outEn (s : State) : (enterClosed s).outEn = false := rfl
@[simp] theorem enterClosed_delta (s : State) : (enterClosed s).delta = s.delta := rfl
@[simp] theorem enterClosed_sofcnt (s : State) : (enterClosed s).sofcnt = s.sofcnt := rfl
@[simp] theorem enterClosed_fbValue (s : State) : (enterClosed s).fbValue = s.fbValue := rfl
@[simp] theorem enterClosed_fbReady (s : State) : (enterClosed s).fbReady = s.fbReady := rfl
@[simp] theorem enterClosed_epFree (s : State) : (enterClosed s).epFree = s.epFree := rfl
@[simp] theorem enterClosed_pend (s : State) : (enterClosed s).pend = s.pend := rfl
@[simp] theorem enterClosed_ie (s : State) : (enterClosed s).ie = s.ie := rfl
@[simp] theorem enterClosed_cntOverflow (s : State) : (enterClosed s).cntOverflow = s.cntOverflow := rfl
@[simp] theorem enterClosed_cntUnderrun (s : State) : (enterClosed s).cntUnderrun = s.cntUnderrun := rfl
@[simp] theorem enterClosed_cntMalformed (s : State) : (enterClosed s).cntMalformed = s.cntMalformed := rfl
@[simp] theorem enterClosed_cntSat (s : State) : (enterClosed s).cntSat = s.cntSat := rfl
@[simp] theorem enterClosed_cntFblost (s : State) : (enterClosed s).cntFblost = s.cntFblost := rfl
@[simp] theorem enterClosed_outBuf (s : State) : (enterClosed s).outBuf = s.outBuf := rfl
@[simp] theorem enterClosed_input (s : State) : (enterClosed s).input = s.input := rfl
@[simp] theorem enterClosed_outputs (s : State) : (enterClosed s).outputs = s.outputs := rfl
@[simp] theorem enterClosed_draws (s : State) : (enterClosed s).draws = s.draws := rfl
@[simp] theorem enterClosed_resets (s : State) : (enterClosed s).resets = s.resets := rfl

/-! ## `setUp` -/

@[simp] theorem setUp_cfg (f : Fmt) (r : Rate) (s : State) : (setUp f r s).cfg = s.cfg := rfl
@[simp] theorem setUp_mem (f : Fmt) (r : Rate) (s : State) : (setUp f r s).mem = s.mem := rfl
@[simp] theorem setUp_head (f : Fmt) (r : Rate) (s : State) : (setUp f r s).head = 0 := rfl
@[simp] theorem setUp_tail (f : Fmt) (r : Rate) (s : State) : (setUp f r s).tail = 0 := rfl
@[simp] theorem setUp_tailPv (f : Fmt) (r : Rate) (s : State) : (setUp f r s).tailPv = 0 := rfl
@[simp] theorem setUp_headCv (f : Fmt) (r : Rate) (s : State) : (setUp f r s).headCv = 0 := rfl
@[simp] theorem setUp_fmt (f : Fmt) (r : Rate) (s : State) : (setUp f r s).fmt = f := rfl
@[simp] theorem setUp_rate (f : Fmt) (r : Rate) (s : State) : (setUp f r s).rate = r := rfl
@[simp] theorem setUp_bl (f : Fmt) (r : Rate) (s : State) : (setUp f r s).bl = zeroRows s.cfg.nch (s.cfg.phaseLen - 1) := rfl
@[simp] theorem setUp_nse (f : Fmt) (r : Rate) (s : State) : (setUp f r s).nse = zeroRows s.cfg.nch s.cfg.nsOrder := rfl
@[simp] theorem setUp_mute (f : Fmt) (r : Rate) (s : State) : (setUp f r s).mute = s.mute := rfl
@[simp] theorem setUp_atten (f : Fmt) (r : Rate) (s : State) : (setUp f r s).atten = s.atten := rfl
@[simp] theorem setUp_pst (f : Fmt) (r : Rate) (s : State) : (setUp f r s).pst = s.pst := rfl
@[simp] theorem setUp_filled (f : Fmt) (r : Rate) (s : State) : (setUp f r s).filled = 0 := rfl
@[simp] theorem setUp_outEn (f : Fmt) (r : Rate) (s : State) : (setUp f r s).outEn = s.outEn := rfl
@[simp] theorem setUp_delta (f : Fmt) (r : Rate) (s : State) : (setUp f r s).delta = 0 := rfl
@[simp] theorem setUp_sofcnt (f : Fmt) (r : Rate) (s : State) : (setUp f r s).sofcnt = 0 := rfl
@[simp] theorem setUp_fbValue (f : Fmt) (r : Rate) (s : State) : (setUp f r s).fbValue = BitVec.ofNat 24 (s.cfg.at r).nom := rfl
@[simp] theorem setUp_fbReady (f : Fmt) (r : Rate) (s : State) : (setUp f r s).fbReady = false := rfl
@[simp] theorem setUp_epFree (f : Fmt) (r : Rate) (s : State) : (setUp f r s).epFree = s.epFree := rfl
@[simp] theorem setUp_pend (f : Fmt) (r : Rate) (s : State) : (setUp f r s).pend = s.pend := rfl
@[simp] theorem setUp_ie (f : Fmt) (r : Rate) (s : State) : (setUp f r s).ie = s.ie := rfl
@[simp] theorem setUp_cntOverflow (f : Fmt) (r : Rate) (s : State) : (setUp f r s).cntOverflow = s.cntOverflow := rfl
@[simp] theorem setUp_cntUnderrun (f : Fmt) (r : Rate) (s : State) : (setUp f r s).cntUnderrun = s.cntUnderrun := rfl
@[simp] theorem setUp_cntMalformed (f : Fmt) (r : Rate) (s : State) : (setUp f r s).cntMalformed = s.cntMalformed := rfl
@[simp] theorem setUp_cntSat (f : Fmt) (r : Rate) (s : State) : (setUp f r s).cntSat = s.cntSat := rfl
@[simp] theorem setUp_cntFblost (f : Fmt) (r : Rate) (s : State) : (setUp f r s).cntFblost = s.cntFblost := rfl
@[simp] theorem setUp_outBuf (f : Fmt) (r : Rate) (s : State) : (setUp f r s).outBuf = s.outBuf := rfl
@[simp] theorem setUp_input (f : Fmt) (r : Rate) (s : State) : (setUp f r s).input = s.input := rfl
@[simp] theorem setUp_outputs (f : Fmt) (r : Rate) (s : State) : (setUp f r s).outputs = s.outputs := rfl
@[simp] theorem setUp_draws (f : Fmt) (r : Rate) (s : State) : (setUp f r s).draws = s.draws := rfl
@[simp] theorem setUp_resets (f : Fmt) (r : Rate) (s : State) : (setUp f r s).resets = s.resets := rfl

/-! ## `trySend` -/

@[simp] theorem trySend_cfg (s : State) : (trySend s).cfg = s.cfg := by
  unfold trySend; split <;> rfl
@[simp] theorem trySend_mem (s : State) : (trySend s).mem = s.mem := by
  unfold trySend; split <;> rfl
@[simp] theorem trySend_head (s : State) : (trySend s).head = s.head := by
  unfold trySend; split <;> rfl
@[simp] theorem trySend_tail (s : State) : (trySend s).tail = s.tail := by
  unfold trySend; split <;> rfl
@[simp] theorem trySend_tailPv (s : State) : (trySend s).tailPv = s.tailPv := by
  unfold trySend; split <;> rfl
@[simp] theorem trySend_headCv (s : State) : (trySend s).headCv = s.headCv := by
  unfold trySend; split <;> rfl
@[simp] theorem trySend_fmt (s : State) : (trySend s).fmt = s.fmt := by
  unfold trySend; split <;> rfl
@[simp] theorem trySend_rate (s : State) : (trySend s).rate = s.rate := by
  unfold trySend; split <;> rfl
@[simp] theorem trySend_bl (s : State) : (trySend s).bl = s.bl := by
  unfold trySend; split <;> rfl
@[simp] theorem trySend_nse (s : State) : (trySend s).nse = s.nse := by
  unfold trySend; split <;> rfl
@[simp] theorem trySend_mute (s : State) : (trySend s).mute = s.mute := by
  unfold trySend; split <;> rfl
@[simp] theorem trySend_atten (s : State) : (trySend s).atten = s.atten := by
  unfold trySend; split <;> rfl
@[simp] theorem trySend_pst (s : State) : (trySend s).pst = s.pst := by
  unfold trySend; split <;> rfl
@[simp] theorem trySend_filled (s : State) : (trySend s).filled = s.filled := by
  unfold trySend; split <;> rfl
@[simp] theorem trySend_outEn (s : State) : (trySend s).outEn = s.outEn := by
  unfold trySend; split <;> rfl
@[simp] theorem trySend_delta (s : State) : (trySend s).delta = s.delta := by
  unfold trySend; split <;> rfl
@[simp] theorem trySend_sofcnt (s : State) : (trySend s).sofcnt = s.sofcnt := by
  unfold trySend; split <;> rfl
@[simp] theorem trySend_fbValue (s : State) : (trySend s).fbValue = s.fbValue := by
  unfold trySend; split <;> rfl
@[simp] theorem trySend_fbReady (s : State) : (trySend s).fbReady = (s.fbReady && !s.epFree) := by
  unfold trySend; cases h : s.fbReady <;> cases h' : s.epFree <;> simp_all
@[simp] theorem trySend_epFree (s : State) : (trySend s).epFree = (s.epFree && !s.fbReady) := by
  unfold trySend; cases h : s.fbReady <;> cases h' : s.epFree <;> simp_all
@[simp] theorem trySend_pend (s : State) : (trySend s).pend = s.pend := by
  unfold trySend; split <;> rfl
@[simp] theorem trySend_ie (s : State) : (trySend s).ie = s.ie := by
  unfold trySend; split <;> rfl
@[simp] theorem trySend_cntOverflow (s : State) : (trySend s).cntOverflow = s.cntOverflow := by
  unfold trySend; split <;> rfl
@[simp] theorem trySend_cntUnderrun (s : State) : (trySend s).cntUnderrun = s.cntUnderrun := by
  unfold trySend; split <;> rfl
@[simp] theorem trySend_cntMalformed (s : State) : (trySend s).cntMalformed = s.cntMalformed := by
  unfold trySend; split <;> rfl
@[simp] theorem trySend_cntSat (s : State) : (trySend s).cntSat = s.cntSat := by
  unfold trySend; split <;> rfl
@[simp] theorem trySend_cntFblost (s : State) : (trySend s).cntFblost = s.cntFblost := by
  unfold trySend; split <;> rfl
@[simp] theorem trySend_outBuf (s : State) : (trySend s).outBuf = s.outBuf := by
  unfold trySend; split <;> rfl
@[simp] theorem trySend_input (s : State) : (trySend s).input = s.input := by
  unfold trySend; split <;> rfl
@[simp] theorem trySend_draws (s : State) : (trySend s).draws = s.draws := by
  unfold trySend; split <;> rfl
@[simp] theorem trySend_resets (s : State) : (trySend s).resets = s.resets := by
  unfold trySend; split <;> rfl

/-! ## `powerOn` -/

@[simp] theorem powerOn_cfg (s : State) : (powerOn s).cfg = s.cfg := rfl
@[simp] theorem powerOn_mem (s : State) : (powerOn s).mem = (State.resetOf s.cfg).mem := rfl
@[simp] theorem powerOn_head (s : State) : (powerOn s).head = (State.resetOf s.cfg).head := rfl
@[simp] theorem powerOn_tail (s : State) : (powerOn s).tail = (State.resetOf s.cfg).tail := rfl
@[simp] theorem powerOn_tailPv (s : State) : (powerOn s).tailPv = (State.resetOf s.cfg).tailPv := rfl
@[simp] theorem powerOn_headCv (s : State) : (powerOn s).headCv = (State.resetOf s.cfg).headCv := rfl
@[simp] theorem powerOn_fmt (s : State) : (powerOn s).fmt = (State.resetOf s.cfg).fmt := rfl
@[simp] theorem powerOn_rate (s : State) : (powerOn s).rate = (State.resetOf s.cfg).rate := rfl
@[simp] theorem powerOn_bl (s : State) : (powerOn s).bl = (State.resetOf s.cfg).bl := rfl
@[simp] theorem powerOn_nse (s : State) : (powerOn s).nse = (State.resetOf s.cfg).nse := rfl
@[simp] theorem powerOn_mute (s : State) : (powerOn s).mute = (State.resetOf s.cfg).mute := rfl
@[simp] theorem powerOn_atten (s : State) : (powerOn s).atten = (State.resetOf s.cfg).atten := rfl
@[simp] theorem powerOn_pst (s : State) : (powerOn s).pst = (State.resetOf s.cfg).pst := rfl
@[simp] theorem powerOn_filled (s : State) : (powerOn s).filled = (State.resetOf s.cfg).filled := rfl
@[simp] theorem powerOn_outEn (s : State) : (powerOn s).outEn = (State.resetOf s.cfg).outEn := rfl
@[simp] theorem powerOn_delta (s : State) : (powerOn s).delta = (State.resetOf s.cfg).delta := rfl
@[simp] theorem powerOn_sofcnt (s : State) : (powerOn s).sofcnt = (State.resetOf s.cfg).sofcnt := rfl
@[simp] theorem powerOn_fbValue (s : State) : (powerOn s).fbValue = (State.resetOf s.cfg).fbValue := rfl
@[simp] theorem powerOn_fbReady (s : State) : (powerOn s).fbReady = (State.resetOf s.cfg).fbReady := rfl
@[simp] theorem powerOn_epFree (s : State) : (powerOn s).epFree = (State.resetOf s.cfg).epFree := rfl
@[simp] theorem powerOn_pend (s : State) : (powerOn s).pend = (State.resetOf s.cfg).pend := rfl
@[simp] theorem powerOn_ie (s : State) : (powerOn s).ie = (State.resetOf s.cfg).ie := rfl
@[simp] theorem powerOn_cntOverflow (s : State) : (powerOn s).cntOverflow = (State.resetOf s.cfg).cntOverflow := rfl
@[simp] theorem powerOn_cntUnderrun (s : State) : (powerOn s).cntUnderrun = (State.resetOf s.cfg).cntUnderrun := rfl
@[simp] theorem powerOn_cntMalformed (s : State) : (powerOn s).cntMalformed = (State.resetOf s.cfg).cntMalformed := rfl
@[simp] theorem powerOn_cntSat (s : State) : (powerOn s).cntSat = (State.resetOf s.cfg).cntSat := rfl
@[simp] theorem powerOn_cntFblost (s : State) : (powerOn s).cntFblost = (State.resetOf s.cfg).cntFblost := rfl
@[simp] theorem powerOn_outBuf (s : State) : (powerOn s).outBuf = (State.resetOf s.cfg).outBuf := rfl
@[simp] theorem powerOn_input (s : State) : (powerOn s).input = s.input := rfl
@[simp] theorem powerOn_outputs (s : State) : (powerOn s).outputs = s.outputs := rfl
@[simp] theorem powerOn_draws (s : State) : (powerOn s).draws = s.draws := rfl
@[simp] theorem powerOn_resets (s : State) : (powerOn s).resets = s.resets + 1 := rfl

end Sys2Proof.Machine
end

