-- ==== Sys2Proof/Laws/Commands.lean ====
section
/-! SUPPORT. The frame of every part of a command, field by field: what the part leaves as it was. -/

namespace Sys2Proof.Machine

/-! ## `refreshTailPv` -/

@[simp] theorem refreshTailPv_cfg (k : Nat) (s : State) : (refreshTailPv k s).cfg = s.cfg := rfl
@[simp] theorem refreshTailPv_mem (k : Nat) (s : State) : (refreshTailPv k s).mem = s.mem := rfl
@[simp] theorem refreshTailPv_head (k : Nat) (s : State) : (refreshTailPv k s).head = s.head := rfl
@[simp] theorem refreshTailPv_tail (k : Nat) (s : State) : (refreshTailPv k s).tail = s.tail := rfl
@[simp] theorem refreshTailPv_headCv (k : Nat) (s : State) : (refreshTailPv k s).headCv = s.headCv := rfl
@[simp] theorem refreshTailPv_fmt (k : Nat) (s : State) : (refreshTailPv k s).fmt = s.fmt := rfl
@[simp] theorem refreshTailPv_rate (k : Nat) (s : State) : (refreshTailPv k s).rate = s.rate := rfl
@[simp] theorem refreshTailPv_bl (k : Nat) (s : State) : (refreshTailPv k s).bl = s.bl := rfl
@[simp] theorem refreshTailPv_nse (k : Nat) (s : State) : (refreshTailPv k s).nse = s.nse := rfl
@[simp] theorem refreshTailPv_mute (k : Nat) (s : State) : (refreshTailPv k s).mute = s.mute := rfl
@[simp] theorem refreshTailPv_atten (k : Nat) (s : State) : (refreshTailPv k s).atten = s.atten := rfl
@[simp] theorem refreshTailPv_pst (k : Nat) (s : State) : (refreshTailPv k s).pst = s.pst := rfl
@[simp] theorem refreshTailPv_filled (k : Nat) (s : State) : (refreshTailPv k s).filled = s.filled := rfl
@[simp] theorem refreshTailPv_outEn (k : Nat) (s : State) : (refreshTailPv k s).outEn = s.outEn := rfl
@[simp] theorem refreshTailPv_delta (k : Nat) (s : State) : (refreshTailPv k s).delta = s.delta := rfl
@[simp] theorem refreshTailPv_sofcnt (k : Nat) (s : State) : (refreshTailPv k s).sofcnt = s.sofcnt := rfl
@[simp] theorem refreshTailPv_fbValue (k : Nat) (s : State) : (refreshTailPv k s).fbValue = s.fbValue := rfl
@[simp] theorem refreshTailPv_fbReady (k : Nat) (s : State) : (refreshTailPv k s).fbReady = s.fbReady := rfl
@[simp] theorem refreshTailPv_epFree (k : Nat) (s : State) : (refreshTailPv k s).epFree = s.epFree := rfl
@[simp] theorem refreshTailPv_pend (k : Nat) (s : State) : (refreshTailPv k s).pend = s.pend := rfl
@[simp] theorem refreshTailPv_ie (k : Nat) (s : State) : (refreshTailPv k s).ie = s.ie := rfl
@[simp] theorem refreshTailPv_cntOverflow (k : Nat) (s : State) : (refreshTailPv k s).cntOverflow = s.cntOverflow := rfl
@[simp] theorem refreshTailPv_cntUnderrun (k : Nat) (s : State) : (refreshTailPv k s).cntUnderrun = s.cntUnderrun := rfl
@[simp] theorem refreshTailPv_cntMalformed (k : Nat) (s : State) : (refreshTailPv k s).cntMalformed = s.cntMalformed := rfl
@[simp] theorem refreshTailPv_cntSat (k : Nat) (s : State) : (refreshTailPv k s).cntSat = s.cntSat := rfl
@[simp] theorem refreshTailPv_cntFblost (k : Nat) (s : State) : (refreshTailPv k s).cntFblost = s.cntFblost := rfl
@[simp] theorem refreshTailPv_outBuf (k : Nat) (s : State) : (refreshTailPv k s).outBuf = s.outBuf := rfl
@[simp] theorem refreshTailPv_input (k : Nat) (s : State) : (refreshTailPv k s).input = s.input := rfl
@[simp] theorem refreshTailPv_outputs (k : Nat) (s : State) : (refreshTailPv k s).outputs = s.outputs := rfl
@[simp] theorem refreshTailPv_resets (k : Nat) (s : State) : (refreshTailPv k s).resets = s.resets := rfl

/-! ## `refreshHeadCv` -/

@[simp] theorem refreshHeadCv_cfg (k : Nat) (s : State) : (refreshHeadCv k s).cfg = s.cfg := rfl
@[simp] theorem refreshHeadCv_mem (k : Nat) (s : State) : (refreshHeadCv k s).mem = s.mem := rfl
@[simp] theorem refreshHeadCv_head (k : Nat) (s : State) : (refreshHeadCv k s).head = s.head := rfl
@[simp] theorem refreshHeadCv_tail (k : Nat) (s : State) : (refreshHeadCv k s).tail = s.tail := rfl
@[simp] theorem refreshHeadCv_tailPv (k : Nat) (s : State) : (refreshHeadCv k s).tailPv = s.tailPv := rfl
@[simp] theorem refreshHeadCv_fmt (k : Nat) (s : State) : (refreshHeadCv k s).fmt = s.fmt := rfl
@[simp] theorem refreshHeadCv_rate (k : Nat) (s : State) : (refreshHeadCv k s).rate = s.rate := rfl
@[simp] theorem refreshHeadCv_bl (k : Nat) (s : State) : (refreshHeadCv k s).bl = s.bl := rfl
@[simp] theorem refreshHeadCv_nse (k : Nat) (s : State) : (refreshHeadCv k s).nse = s.nse := rfl
@[simp] theorem refreshHeadCv_mute (k : Nat) (s : State) : (refreshHeadCv k s).mute = s.mute := rfl
@[simp] theorem refreshHeadCv_atten (k : Nat) (s : State) : (refreshHeadCv k s).atten = s.atten := rfl
@[simp] theorem refreshHeadCv_pst (k : Nat) (s : State) : (refreshHeadCv k s).pst = s.pst := rfl
@[simp] theorem refreshHeadCv_filled (k : Nat) (s : State) : (refreshHeadCv k s).filled = s.filled := rfl
@[simp] theorem refreshHeadCv_outEn (k : Nat) (s : State) : (refreshHeadCv k s).outEn = s.outEn := rfl
@[simp] theorem refreshHeadCv_delta (k : Nat) (s : State) : (refreshHeadCv k s).delta = s.delta := rfl
@[simp] theorem refreshHeadCv_sofcnt (k : Nat) (s : State) : (refreshHeadCv k s).sofcnt = s.sofcnt := rfl
@[simp] theorem refreshHeadCv_fbValue (k : Nat) (s : State) : (refreshHeadCv k s).fbValue = s.fbValue := rfl
@[simp] theorem refreshHeadCv_fbReady (k : Nat) (s : State) : (refreshHeadCv k s).fbReady = s.fbReady := rfl
@[simp] theorem refreshHeadCv_epFree (k : Nat) (s : State) : (refreshHeadCv k s).epFree = s.epFree := rfl
@[simp] theorem refreshHeadCv_pend (k : Nat) (s : State) : (refreshHeadCv k s).pend = s.pend := rfl
@[simp] theorem refreshHeadCv_ie (k : Nat) (s : State) : (refreshHeadCv k s).ie = s.ie := rfl
@[simp] theorem refreshHeadCv_cntOverflow (k : Nat) (s : State) : (refreshHeadCv k s).cntOverflow = s.cntOverflow := rfl
@[simp] theorem refreshHeadCv_cntUnderrun (k : Nat) (s : State) : (refreshHeadCv k s).cntUnderrun = s.cntUnderrun := rfl
@[simp] theorem refreshHeadCv_cntMalformed (k : Nat) (s : State) : (refreshHeadCv k s).cntMalformed = s.cntMalformed := rfl
@[simp] theorem refreshHeadCv_cntSat (k : Nat) (s : State) : (refreshHeadCv k s).cntSat = s.cntSat := rfl
@[simp] theorem refreshHeadCv_cntFblost (k : Nat) (s : State) : (refreshHeadCv k s).cntFblost = s.cntFblost := rfl
@[simp] theorem refreshHeadCv_outBuf (k : Nat) (s : State) : (refreshHeadCv k s).outBuf = s.outBuf := rfl
@[simp] theorem refreshHeadCv_input (k : Nat) (s : State) : (refreshHeadCv k s).input = s.input := rfl
@[simp] theorem refreshHeadCv_outputs (k : Nat) (s : State) : (refreshHeadCv k s).outputs = s.outputs := rfl
@[simp] theorem refreshHeadCv_resets (k : Nat) (s : State) : (refreshHeadCv k s).resets = s.resets := rfl

/-! ## `storePacket` -/

@[simp] theorem storePacket_cfg (n left : Nat) (b : List Byte) (s : State) : (storePacket n left b s).cfg = s.cfg := rfl
@[simp] theorem storePacket_tail (n left : Nat) (b : List Byte) (s : State) : (storePacket n left b s).tail = s.tail := rfl
@[simp] theorem storePacket_tailPv (n left : Nat) (b : List Byte) (s : State) : (storePacket n left b s).tailPv = s.tailPv := rfl
@[simp] theorem storePacket_headCv (n left : Nat) (b : List Byte) (s : State) : (storePacket n left b s).headCv = s.headCv := rfl
@[simp] theorem storePacket_fmt (n left : Nat) (b : List Byte) (s : State) : (storePacket n left b s).fmt = s.fmt := rfl
@[simp] theorem storePacket_rate (n left : Nat) (b : List Byte) (s : State) : (storePacket n left b s).rate = s.rate := rfl
@[simp] theorem storePacket_bl (n left : Nat) (b : List Byte) (s : State) : (storePacket n left b s).bl = s.bl := rfl
@[simp] theorem storePacket_nse (n left : Nat) (b : List Byte) (s : State) : (storePacket n left b s).nse = s.nse := rfl
@[simp] theorem storePacket_mute (n left : Nat) (b : List Byte) (s : State) : (storePacket n left b s).mute = s.mute := rfl
@[simp] theorem storePacket_atten (n left : Nat) (b : List Byte) (s : State) : (storePacket n left b s).atten = s.atten := rfl
@[simp] theorem storePacket_pst (n left : Nat) (b : List Byte) (s : State) : (storePacket n left b s).pst = s.pst := rfl
@[simp] theorem storePacket_filled (n left : Nat) (b : List Byte) (s : State) : (storePacket n left b s).filled = s.filled := rfl
@[simp] theorem storePacket_outEn (n left : Nat) (b : List Byte) (s : State) : (storePacket n left b s).outEn = s.outEn := rfl
@[simp] theorem storePacket_sofcnt (n left : Nat) (b : List Byte) (s : State) : (storePacket n left b s).sofcnt = s.sofcnt := rfl
@[simp] theorem storePacket_fbValue (n left : Nat) (b : List Byte) (s : State) : (storePacket n left b s).fbValue = s.fbValue := rfl
@[simp] theorem storePacket_fbReady (n left : Nat) (b : List Byte) (s : State) : (storePacket n left b s).fbReady = s.fbReady := rfl
@[simp] theorem storePacket_epFree (n left : Nat) (b : List Byte) (s : State) : (storePacket n left b s).epFree = s.epFree := rfl
@[simp] theorem storePacket_pend (n left : Nat) (b : List Byte) (s : State) : (storePacket n left b s).pend = s.pend := rfl
@[simp] theorem storePacket_ie (n left : Nat) (b : List Byte) (s : State) : (storePacket n left b s).ie = s.ie := rfl
@[simp] theorem storePacket_cntOverflow (n left : Nat) (b : List Byte) (s : State) : (storePacket n left b s).cntOverflow = s.cntOverflow := rfl
@[simp] theorem storePacket_cntUnderrun (n left : Nat) (b : List Byte) (s : State) : (storePacket n left b s).cntUnderrun = s.cntUnderrun := rfl
@[simp] theorem storePacket_cntMalformed (n left : Nat) (b : List Byte) (s : State) : (storePacket n left b s).cntMalformed = s.cntMalformed := rfl
@[simp] theorem storePacket_cntSat (n left : Nat) (b : List Byte) (s : State) : (storePacket n left b s).cntSat = s.cntSat := rfl
@[simp] theorem storePacket_cntFblost (n left : Nat) (b : List Byte) (s : State) : (storePacket n left b s).cntFblost = s.cntFblost := rfl
@[simp] theorem storePacket_outBuf (n left : Nat) (b : List Byte) (s : State) : (storePacket n left b s).outBuf = s.outBuf := rfl
@[simp] theorem storePacket_input (n left : Nat) (b : List Byte) (s : State) : (storePacket n left b s).input = s.input := rfl
@[simp] theorem storePacket_outputs (n left : Nat) (b : List Byte) (s : State) : (storePacket n left b s).outputs = s.outputs := rfl
@[simp] theorem storePacket_draws (n left : Nat) (b : List Byte) (s : State) : (storePacket n left b s).draws = s.draws := rfl
@[simp] theorem storePacket_resets (n left : Nat) (b : List Byte) (s : State) : (storePacket n left b s).resets = s.resets := rfl

/-! ## `putMalformed` -/

@[simp] theorem putMalformed_cfg (n : Nat) (s : State) : (putMalformed n s).cfg = s.cfg := by unfold putMalformed; split <;> simp
@[simp] theorem putMalformed_mem (n : Nat) (s : State) : (putMalformed n s).mem = s.mem := by unfold putMalformed; split <;> simp
@[simp] theorem putMalformed_head (n : Nat) (s : State) : (putMalformed n s).head = s.head := by unfold putMalformed; split <;> simp
@[simp] theorem putMalformed_tail (n : Nat) (s : State) : (putMalformed n s).tail = s.tail := by unfold putMalformed; split <;> simp
@[simp] theorem putMalformed_tailPv (n : Nat) (s : State) : (putMalformed n s).tailPv = s.tailPv := by unfold putMalformed; split <;> simp
@[simp] theorem putMalformed_headCv (n : Nat) (s : State) : (putMalformed n s).headCv = s.headCv := by unfold putMalformed; split <;> simp
@[simp] theorem putMalformed_fmt (n : Nat) (s : State) : (putMalformed n s).fmt = s.fmt := by unfold putMalformed; split <;> simp
@[simp] theorem putMalformed_rate (n : Nat) (s : State) : (putMalformed n s).rate = s.rate := by unfold putMalformed; split <;> simp
@[simp] theorem putMalformed_bl (n : Nat) (s : State) : (putMalformed n s).bl = s.bl := by unfold putMalformed; split <;> simp
@[simp] theorem putMalformed_nse (n : Nat) (s : State) : (putMalformed n s).nse = s.nse := by unfold putMalformed; split <;> simp
@[simp] theorem putMalformed_mute (n : Nat) (s : State) : (putMalformed n s).mute = s.mute := by unfold putMalformed; split <;> simp
@[simp] theorem putMalformed_atten (n : Nat) (s : State) : (putMalformed n s).atten = s.atten := by unfold putMalformed; split <;> simp
@[simp] theorem putMalformed_pst (n : Nat) (s : State) : (putMalformed n s).pst = s.pst := by unfold putMalformed; split <;> simp
@[simp] theorem putMalformed_filled (n : Nat) (s : State) : (putMalformed n s).filled = s.filled := by unfold putMalformed; split <;> simp
@[simp] theorem putMalformed_outEn (n : Nat) (s : State) : (putMalformed n s).outEn = s.outEn := by unfold putMalformed; split <;> simp
@[simp] theorem putMalformed_delta (n : Nat) (s : State) : (putMalformed n s).delta = s.delta := by unfold putMalformed; split <;> simp
@[simp] theorem putMalformed_sofcnt (n : Nat) (s : State) : (putMalformed n s).sofcnt = s.sofcnt := by unfold putMalformed; split <;> simp
@[simp] theorem putMalformed_fbValue (n : Nat) (s : State) : (putMalformed n s).fbValue = s.fbValue := by unfold putMalformed; split <;> simp
@[simp] theorem putMalformed_fbReady (n : Nat) (s : State) : (putMalformed n s).fbReady = s.fbReady := by unfold putMalformed; split <;> simp
@[simp] theorem putMalformed_epFree (n : Nat) (s : State) : (putMalformed n s).epFree = s.epFree := by unfold putMalformed; split <;> simp
@[simp] theorem putMalformed_ie (n : Nat) (s : State) : (putMalformed n s).ie = s.ie := by unfold putMalformed; split <;> simp
@[simp] theorem putMalformed_cntOverflow (n : Nat) (s : State) : (putMalformed n s).cntOverflow = s.cntOverflow := by unfold putMalformed; split <;> simp
@[simp] theorem putMalformed_cntUnderrun (n : Nat) (s : State) : (putMalformed n s).cntUnderrun = s.cntUnderrun := by unfold putMalformed; split <;> simp
@[simp] theorem putMalformed_cntSat (n : Nat) (s : State) : (putMalformed n s).cntSat = s.cntSat := by unfold putMalformed; split <;> simp
@[simp] theorem putMalformed_cntFblost (n : Nat) (s : State) : (putMalformed n s).cntFblost = s.cntFblost := by unfold putMalformed; split <;> simp
@[simp] theorem putMalformed_outBuf (n : Nat) (s : State) : (putMalformed n s).outBuf = s.outBuf := by unfold putMalformed; split <;> simp
@[simp] theorem putMalformed_input (n : Nat) (s : State) : (putMalformed n s).input = s.input := by unfold putMalformed; split <;> simp
@[simp] theorem putMalformed_outputs (n : Nat) (s : State) : (putMalformed n s).outputs = s.outputs := by unfold putMalformed; split <;> simp
@[simp] theorem putMalformed_draws (n : Nat) (s : State) : (putMalformed n s).draws = s.draws := by unfold putMalformed; split <;> simp
@[simp] theorem putMalformed_resets (n : Nat) (s : State) : (putMalformed n s).resets = s.resets := by unfold putMalformed; split <;> simp

/-! ## `putStore` -/

@[simp] theorem putStore_cfg (n : Nat) (b : List Byte) (s : State) : (putStore n b s).cfg = s.cfg := by unfold putStore; split <;> simp
@[simp] theorem putStore_tail (n : Nat) (b : List Byte) (s : State) : (putStore n b s).tail = s.tail := by unfold putStore; split <;> simp
@[simp] theorem putStore_tailPv (n : Nat) (b : List Byte) (s : State) : (putStore n b s).tailPv = s.tailPv := by unfold putStore; split <;> simp
@[simp] theorem putStore_headCv (n : Nat) (b : List Byte) (s : State) : (putStore n b s).headCv = s.headCv := by unfold putStore; split <;> simp
@[simp] theorem putStore_fmt (n : Nat) (b : List Byte) (s : State) : (putStore n b s).fmt = s.fmt := by unfold putStore; split <;> simp
@[simp] theorem putStore_rate (n : Nat) (b : List Byte) (s : State) : (putStore n b s).rate = s.rate := by unfold putStore; split <;> simp
@[simp] theorem putStore_bl (n : Nat) (b : List Byte) (s : State) : (putStore n b s).bl = s.bl := by unfold putStore; split <;> simp
@[simp] theorem putStore_nse (n : Nat) (b : List Byte) (s : State) : (putStore n b s).nse = s.nse := by unfold putStore; split <;> simp
@[simp] theorem putStore_mute (n : Nat) (b : List Byte) (s : State) : (putStore n b s).mute = s.mute := by unfold putStore; split <;> simp
@[simp] theorem putStore_atten (n : Nat) (b : List Byte) (s : State) : (putStore n b s).atten = s.atten := by unfold putStore; split <;> simp
@[simp] theorem putStore_pst (n : Nat) (b : List Byte) (s : State) : (putStore n b s).pst = s.pst := by unfold putStore; split <;> simp
@[simp] theorem putStore_filled (n : Nat) (b : List Byte) (s : State) : (putStore n b s).filled = s.filled := by unfold putStore; split <;> simp
@[simp] theorem putStore_outEn (n : Nat) (b : List Byte) (s : State) : (putStore n b s).outEn = s.outEn := by unfold putStore; split <;> simp
@[simp] theorem putStore_sofcnt (n : Nat) (b : List Byte) (s : State) : (putStore n b s).sofcnt = s.sofcnt := by unfold putStore; split <;> simp
@[simp] theorem putStore_fbValue (n : Nat) (b : List Byte) (s : State) : (putStore n b s).fbValue = s.fbValue := by unfold putStore; split <;> simp
@[simp] theorem putStore_fbReady (n : Nat) (b : List Byte) (s : State) : (putStore n b s).fbReady = s.fbReady := by unfold putStore; split <;> simp
@[simp] theorem putStore_epFree (n : Nat) (b : List Byte) (s : State) : (putStore n b s).epFree = s.epFree := by unfold putStore; split <;> simp
@[simp] theorem putStore_ie (n : Nat) (b : List Byte) (s : State) : (putStore n b s).ie = s.ie := by unfold putStore; split <;> simp
@[simp] theorem putStore_cntUnderrun (n : Nat) (b : List Byte) (s : State) : (putStore n b s).cntUnderrun = s.cntUnderrun := by unfold putStore; split <;> simp
@[simp] theorem putStore_cntMalformed (n : Nat) (b : List Byte) (s : State) : (putStore n b s).cntMalformed = s.cntMalformed := by unfold putStore; split <;> simp
@[simp] theorem putStore_cntSat (n : Nat) (b : List Byte) (s : State) : (putStore n b s).cntSat = s.cntSat := by unfold putStore; split <;> simp
@[simp] theorem putStore_cntFblost (n : Nat) (b : List Byte) (s : State) : (putStore n b s).cntFblost = s.cntFblost := by unfold putStore; split <;> simp
@[simp] theorem putStore_outBuf (n : Nat) (b : List Byte) (s : State) : (putStore n b s).outBuf = s.outBuf := by unfold putStore; split <;> simp
@[simp] theorem putStore_input (n : Nat) (b : List Byte) (s : State) : (putStore n b s).input = s.input := by unfold putStore; split <;> simp
@[simp] theorem putStore_draws (n : Nat) (b : List Byte) (s : State) : (putStore n b s).draws = s.draws := by unfold putStore; split <;> simp
@[simp] theorem putStore_resets (n : Nat) (b : List Byte) (s : State) : (putStore n b s).resets = s.resets := by unfold putStore; split <;> simp

/-! ## `putWith` -/

@[simp] theorem putWith_cfg (k : Nat) (len : BitVec 16) (b : List Byte) (s : State) : (putWith k len b s).cfg = s.cfg := by simp [putWith]
@[simp] theorem putWith_tail (k : Nat) (len : BitVec 16) (b : List Byte) (s : State) : (putWith k len b s).tail = s.tail := by simp [putWith]
@[simp] theorem putWith_headCv (k : Nat) (len : BitVec 16) (b : List Byte) (s : State) : (putWith k len b s).headCv = s.headCv := by simp [putWith]
@[simp] theorem putWith_fmt (k : Nat) (len : BitVec 16) (b : List Byte) (s : State) : (putWith k len b s).fmt = s.fmt := by simp [putWith]
@[simp] theorem putWith_rate (k : Nat) (len : BitVec 16) (b : List Byte) (s : State) : (putWith k len b s).rate = s.rate := by simp [putWith]
@[simp] theorem putWith_bl (k : Nat) (len : BitVec 16) (b : List Byte) (s : State) : (putWith k len b s).bl = s.bl := by simp [putWith]
@[simp] theorem putWith_nse (k : Nat) (len : BitVec 16) (b : List Byte) (s : State) : (putWith k len b s).nse = s.nse := by simp [putWith]
@[simp] theorem putWith_mute (k : Nat) (len : BitVec 16) (b : List Byte) (s : State) : (putWith k len b s).mute = s.mute := by simp [putWith]
@[simp] theorem putWith_atten (k : Nat) (len : BitVec 16) (b : List Byte) (s : State) : (putWith k len b s).atten = s.atten := by simp [putWith]
@[simp] theorem putWith_pst (k : Nat) (len : BitVec 16) (b : List Byte) (s : State) : (putWith k len b s).pst = s.pst := by simp [putWith]
@[simp] theorem putWith_filled (k : Nat) (len : BitVec 16) (b : List Byte) (s : State) : (putWith k len b s).filled = s.filled := by simp [putWith]
@[simp] theorem putWith_outEn (k : Nat) (len : BitVec 16) (b : List Byte) (s : State) : (putWith k len b s).outEn = s.outEn := by simp [putWith]
@[simp] theorem putWith_sofcnt (k : Nat) (len : BitVec 16) (b : List Byte) (s : State) : (putWith k len b s).sofcnt = s.sofcnt := by simp [putWith]
@[simp] theorem putWith_fbValue (k : Nat) (len : BitVec 16) (b : List Byte) (s : State) : (putWith k len b s).fbValue = s.fbValue := by simp [putWith]
@[simp] theorem putWith_fbReady (k : Nat) (len : BitVec 16) (b : List Byte) (s : State) : (putWith k len b s).fbReady = s.fbReady := by simp [putWith]
@[simp] theorem putWith_epFree (k : Nat) (len : BitVec 16) (b : List Byte) (s : State) : (putWith k len b s).epFree = s.epFree := by simp [putWith]
@[simp] theorem putWith_ie (k : Nat) (len : BitVec 16) (b : List Byte) (s : State) : (putWith k len b s).ie = s.ie := by simp [putWith]
@[simp] theorem putWith_cntUnderrun (k : Nat) (len : BitVec 16) (b : List Byte) (s : State) : (putWith k len b s).cntUnderrun = s.cntUnderrun := by simp [putWith]
@[simp] theorem putWith_cntSat (k : Nat) (len : BitVec 16) (b : List Byte) (s : State) : (putWith k len b s).cntSat = s.cntSat := by simp [putWith]
@[simp] theorem putWith_cntFblost (k : Nat) (len : BitVec 16) (b : List Byte) (s : State) : (putWith k len b s).cntFblost = s.cntFblost := by simp [putWith]
@[simp] theorem putWith_outBuf (k : Nat) (len : BitVec 16) (b : List Byte) (s : State) : (putWith k len b s).outBuf = s.outBuf := by simp [putWith]
@[simp] theorem putWith_input (k : Nat) (len : BitVec 16) (b : List Byte) (s : State) : (putWith k len b s).input = s.input := by simp [putWith]
@[simp] theorem putWith_resets (k : Nat) (len : BitVec 16) (b : List Byte) (s : State) : (putWith k len b s).resets = s.resets := by simp [putWith]

/-! ## `countTick` -/

@[simp] theorem countTick_cfg (s : State) : (countTick s).cfg = s.cfg := rfl
@[simp] theorem countTick_mem (s : State) : (countTick s).mem = s.mem := rfl
@[simp] theorem countTick_head (s : State) : (countTick s).head = s.head := rfl
@[simp] theorem countTick_tail (s : State) : (countTick s).tail = s.tail := rfl
@[simp] theorem countTick_tailPv (s : State) : (countTick s).tailPv = s.tailPv := rfl
@[simp] theorem countTick_headCv (s : State) : (countTick s).headCv = s.headCv := rfl
@[simp] theorem countTick_fmt (s : State) : (countTick s).fmt = s.fmt := rfl
@[simp] theorem countTick_rate (s : State) : (countTick s).rate = s.rate := rfl
@[simp] theorem countTick_bl (s : State) : (countTick s).bl = s.bl := rfl
@[simp] theorem countTick_nse (s : State) : (countTick s).nse = s.nse := rfl
@[simp] theorem countTick_mute (s : State) : (countTick s).mute = s.mute := rfl
@[simp] theorem countTick_atten (s : State) : (countTick s).atten = s.atten := rfl
@[simp] theorem countTick_pst (s : State) : (countTick s).pst = s.pst := rfl
@[simp] theorem countTick_filled (s : State) : (countTick s).filled = s.filled := rfl
@[simp] theorem countTick_outEn (s : State) : (countTick s).outEn = s.outEn := rfl
@[simp] theorem countTick_delta (s : State) : (countTick s).delta = s.delta := rfl
@[simp] theorem countTick_fbValue (s : State) : (countTick s).fbValue = s.fbValue := rfl
@[simp] theorem countTick_fbReady (s : State) : (countTick s).fbReady = s.fbReady := rfl
@[simp] theorem countTick_epFree (s : State) : (countTick s).epFree = s.epFree := rfl
@[simp] theorem countTick_pend (s : State) : (countTick s).pend = s.pend := rfl
@[simp] theorem countTick_ie (s : State) : (countTick s).ie = s.ie := rfl
@[simp] theorem countTick_cntOverflow (s : State) : (countTick s).cntOverflow = s.cntOverflow := rfl
@[simp] theorem countTick_cntUnderrun (s : State) : (countTick s).cntUnderrun = s.cntUnderrun := rfl
@[simp] theorem countTick_cntMalformed (s : State) : (countTick s).cntMalformed = s.cntMalformed := rfl
@[simp] theorem countTick_cntSat (s : State) : (countTick s).cntSat = s.cntSat := rfl
@[simp] theorem countTick_cntFblost (s : State) : (countTick s).cntFblost = s.cntFblost := rfl
@[simp] theorem countTick_outBuf (s : State) : (countTick s).outBuf = s.outBuf := rfl
@[simp] theorem countTick_input (s : State) : (countTick s).input = s.input := rfl
@[simp] theorem countTick_outputs (s : State) : (countTick s).outputs = s.outputs := rfl
@[simp] theorem countTick_draws (s : State) : (countTick s).draws = s.draws := rfl
@[simp] theorem countTick_resets (s : State) : (countTick s).resets = s.resets := rfl

/-! ## `lostReport` -/

@[simp] theorem lostReport_cfg (s : State) : (lostReport s).cfg = s.cfg := by unfold lostReport; split <;> simp
@[simp] theorem lostReport_mem (s : State) : (lostReport s).mem = s.mem := by unfold lostReport; split <;> simp
@[simp] theorem lostReport_head (s : State) : (lostReport s).head = s.head := by unfold lostReport; split <;> simp
@[simp] theorem lostReport_tail (s : State) : (lostReport s).tail = s.tail := by unfold lostReport; split <;> simp
@[simp] theorem lostReport_tailPv (s : State) : (lostReport s).tailPv = s.tailPv := by unfold lostReport; split <;> simp
@[simp] theorem lostReport_headCv (s : State) : (lostReport s).headCv = s.headCv := by unfold lostReport; split <;> simp
@[simp] theorem lostReport_fmt (s : State) : (lostReport s).fmt = s.fmt := by unfold lostReport; split <;> simp
@[simp] theorem lostReport_rate (s : State) : (lostReport s).rate = s.rate := by unfold lostReport; split <;> simp
@[simp] theorem lostReport_bl (s : State) : (lostReport s).bl = s.bl := by unfold lostReport; split <;> simp
@[simp] theorem lostReport_nse (s : State) : (lostReport s).nse = s.nse := by unfold lostReport; split <;> simp
@[simp] theorem lostReport_mute (s : State) : (lostReport s).mute = s.mute := by unfold lostReport; split <;> simp
@[simp] theorem lostReport_atten (s : State) : (lostReport s).atten = s.atten := by unfold lostReport; split <;> simp
@[simp] theorem lostReport_pst (s : State) : (lostReport s).pst = s.pst := by unfold lostReport; split <;> simp
@[simp] theorem lostReport_filled (s : State) : (lostReport s).filled = s.filled := by unfold lostReport; split <;> simp
@[simp] theorem lostReport_outEn (s : State) : (lostReport s).outEn = s.outEn := by unfold lostReport; split <;> simp
@[simp] theorem lostReport_delta (s : State) : (lostReport s).delta = s.delta := by unfold lostReport; split <;> simp
@[simp] theorem lostReport_sofcnt (s : State) : (lostReport s).sofcnt = s.sofcnt := by unfold lostReport; split <;> simp
@[simp] theorem lostReport_fbValue (s : State) : (lostReport s).fbValue = s.fbValue := by unfold lostReport; split <;> simp
@[simp] theorem lostReport_fbReady (s : State) : (lostReport s).fbReady = s.fbReady := by unfold lostReport; split <;> simp
@[simp] theorem lostReport_epFree (s : State) : (lostReport s).epFree = s.epFree := by unfold lostReport; split <;> simp
@[simp] theorem lostReport_ie (s : State) : (lostReport s).ie = s.ie := by unfold lostReport; split <;> simp
@[simp] theorem lostReport_cntOverflow (s : State) : (lostReport s).cntOverflow = s.cntOverflow := by unfold lostReport; split <;> simp
@[simp] theorem lostReport_cntUnderrun (s : State) : (lostReport s).cntUnderrun = s.cntUnderrun := by unfold lostReport; split <;> simp
@[simp] theorem lostReport_cntMalformed (s : State) : (lostReport s).cntMalformed = s.cntMalformed := by unfold lostReport; split <;> simp
@[simp] theorem lostReport_cntSat (s : State) : (lostReport s).cntSat = s.cntSat := by unfold lostReport; split <;> simp
@[simp] theorem lostReport_outBuf (s : State) : (lostReport s).outBuf = s.outBuf := by unfold lostReport; split <;> simp
@[simp] theorem lostReport_input (s : State) : (lostReport s).input = s.input := by unfold lostReport; split <;> simp
@[simp] theorem lostReport_outputs (s : State) : (lostReport s).outputs = s.outputs := by unfold lostReport; split <;> simp
@[simp] theorem lostReport_draws (s : State) : (lostReport s).draws = s.draws := by unfold lostReport; split <;> simp
@[simp] theorem lostReport_resets (s : State) : (lostReport s).resets = s.resets := by unfold lostReport; split <;> simp

/-! ## `newReport` -/

@[simp] theorem newReport_cfg (s : State) : (newReport s).cfg = s.cfg := rfl
@[simp] theorem newReport_mem (s : State) : (newReport s).mem = s.mem := rfl
@[simp] theorem newReport_head (s : State) : (newReport s).head = s.head := rfl
@[simp] theorem newReport_tail (s : State) : (newReport s).tail = s.tail := rfl
@[simp] theorem newReport_tailPv (s : State) : (newReport s).tailPv = s.tailPv := rfl
@[simp] theorem newReport_headCv (s : State) : (newReport s).headCv = s.headCv := rfl
@[simp] theorem newReport_fmt (s : State) : (newReport s).fmt = s.fmt := rfl
@[simp] theorem newReport_rate (s : State) : (newReport s).rate = s.rate := rfl
@[simp] theorem newReport_bl (s : State) : (newReport s).bl = s.bl := rfl
@[simp] theorem newReport_nse (s : State) : (newReport s).nse = s.nse := rfl
@[simp] theorem newReport_mute (s : State) : (newReport s).mute = s.mute := rfl
@[simp] theorem newReport_atten (s : State) : (newReport s).atten = s.atten := rfl
@[simp] theorem newReport_pst (s : State) : (newReport s).pst = s.pst := rfl
@[simp] theorem newReport_filled (s : State) : (newReport s).filled = s.filled := rfl
@[simp] theorem newReport_outEn (s : State) : (newReport s).outEn = s.outEn := rfl
@[simp] theorem newReport_sofcnt (s : State) : (newReport s).sofcnt = s.sofcnt := rfl
@[simp] theorem newReport_epFree (s : State) : (newReport s).epFree = s.epFree := rfl
@[simp] theorem newReport_pend (s : State) : (newReport s).pend = s.pend := rfl
@[simp] theorem newReport_ie (s : State) : (newReport s).ie = s.ie := rfl
@[simp] theorem newReport_cntOverflow (s : State) : (newReport s).cntOverflow = s.cntOverflow := rfl
@[simp] theorem newReport_cntUnderrun (s : State) : (newReport s).cntUnderrun = s.cntUnderrun := rfl
@[simp] theorem newReport_cntMalformed (s : State) : (newReport s).cntMalformed = s.cntMalformed := rfl
@[simp] theorem newReport_cntSat (s : State) : (newReport s).cntSat = s.cntSat := rfl
@[simp] theorem newReport_cntFblost (s : State) : (newReport s).cntFblost = s.cntFblost := rfl
@[simp] theorem newReport_outBuf (s : State) : (newReport s).outBuf = s.outBuf := rfl
@[simp] theorem newReport_input (s : State) : (newReport s).input = s.input := rfl
@[simp] theorem newReport_outputs (s : State) : (newReport s).outputs = s.outputs := rfl
@[simp] theorem newReport_draws (s : State) : (newReport s).draws = s.draws := rfl
@[simp] theorem newReport_resets (s : State) : (newReport s).resets = s.resets := rfl

/-! ## `reportBoundary` -/

@[simp] theorem reportBoundary_cfg (s : State) : (reportBoundary s).cfg = s.cfg := by simp [reportBoundary]
@[simp] theorem reportBoundary_mem (s : State) : (reportBoundary s).mem = s.mem := by simp [reportBoundary]
@[simp] theorem reportBoundary_head (s : State) : (reportBoundary s).head = s.head := by simp [reportBoundary]
@[simp] theorem reportBoundary_tail (s : State) : (reportBoundary s).tail = s.tail := by simp [reportBoundary]
@[simp] theorem reportBoundary_tailPv (s : State) : (reportBoundary s).tailPv = s.tailPv := by simp [reportBoundary]
@[simp] theorem reportBoundary_headCv (s : State) : (reportBoundary s).headCv = s.headCv := by simp [reportBoundary]
@[simp] theorem reportBoundary_fmt (s : State) : (reportBoundary s).fmt = s.fmt := by simp [reportBoundary]
@[simp] theorem reportBoundary_rate (s : State) : (reportBoundary s).rate = s.rate := by simp [reportBoundary]
@[simp] theorem reportBoundary_bl (s : State) : (reportBoundary s).bl = s.bl := by simp [reportBoundary]
@[simp] theorem reportBoundary_nse (s : State) : (reportBoundary s).nse = s.nse := by simp [reportBoundary]
@[simp] theorem reportBoundary_mute (s : State) : (reportBoundary s).mute = s.mute := by simp [reportBoundary]
@[simp] theorem reportBoundary_atten (s : State) : (reportBoundary s).atten = s.atten := by simp [reportBoundary]
@[simp] theorem reportBoundary_pst (s : State) : (reportBoundary s).pst = s.pst := by simp [reportBoundary]
@[simp] theorem reportBoundary_filled (s : State) : (reportBoundary s).filled = s.filled := by simp [reportBoundary]
@[simp] theorem reportBoundary_outEn (s : State) : (reportBoundary s).outEn = s.outEn := by simp [reportBoundary]
@[simp] theorem reportBoundary_sofcnt (s : State) : (reportBoundary s).sofcnt = s.sofcnt := by simp [reportBoundary]
@[simp] theorem reportBoundary_epFree (s : State) : (reportBoundary s).epFree = s.epFree := by simp [reportBoundary]
@[simp] theorem reportBoundary_ie (s : State) : (reportBoundary s).ie = s.ie := by simp [reportBoundary]
@[simp] theorem reportBoundary_cntOverflow (s : State) : (reportBoundary s).cntOverflow = s.cntOverflow := by simp [reportBoundary]
@[simp] theorem reportBoundary_cntUnderrun (s : State) : (reportBoundary s).cntUnderrun = s.cntUnderrun := by simp [reportBoundary]
@[simp] theorem reportBoundary_cntMalformed (s : State) : (reportBoundary s).cntMalformed = s.cntMalformed := by simp [reportBoundary]
@[simp] theorem reportBoundary_cntSat (s : State) : (reportBoundary s).cntSat = s.cntSat := by simp [reportBoundary]
@[simp] theorem reportBoundary_outBuf (s : State) : (reportBoundary s).outBuf = s.outBuf := by simp [reportBoundary]
@[simp] theorem reportBoundary_input (s : State) : (reportBoundary s).input = s.input := by simp [reportBoundary]
@[simp] theorem reportBoundary_outputs (s : State) : (reportBoundary s).outputs = s.outputs := by simp [reportBoundary]
@[simp] theorem reportBoundary_draws (s : State) : (reportBoundary s).draws = s.draws := by simp [reportBoundary]
@[simp] theorem reportBoundary_resets (s : State) : (reportBoundary s).resets = s.resets := by simp [reportBoundary]

/-! ## `sofTick` -/

@[simp] theorem sofTick_cfg (s : State) : (sofTick s).cfg = s.cfg := by unfold sofTick; split <;> simp
@[simp] theorem sofTick_mem (s : State) : (sofTick s).mem = s.mem := by unfold sofTick; split <;> simp
@[simp] theorem sofTick_head (s : State) : (sofTick s).head = s.head := by unfold sofTick; split <;> simp
@[simp] theorem sofTick_tail (s : State) : (sofTick s).tail = s.tail := by unfold sofTick; split <;> simp
@[simp] theorem sofTick_tailPv (s : State) : (sofTick s).tailPv = s.tailPv := by unfold sofTick; split <;> simp
@[simp] theorem sofTick_headCv (s : State) : (sofTick s).headCv = s.headCv := by unfold sofTick; split <;> simp
@[simp] theorem sofTick_fmt (s : State) : (sofTick s).fmt = s.fmt := by unfold sofTick; split <;> simp
@[simp] theorem sofTick_rate (s : State) : (sofTick s).rate = s.rate := by unfold sofTick; split <;> simp
@[simp] theorem sofTick_bl (s : State) : (sofTick s).bl = s.bl := by unfold sofTick; split <;> simp
@[simp] theorem sofTick_nse (s : State) : (sofTick s).nse = s.nse := by unfold sofTick; split <;> simp
@[simp] theorem sofTick_mute (s : State) : (sofTick s).mute = s.mute := by unfold sofTick; split <;> simp
@[simp] theorem sofTick_atten (s : State) : (sofTick s).atten = s.atten := by unfold sofTick; split <;> simp
@[simp] theorem sofTick_pst (s : State) : (sofTick s).pst = s.pst := by unfold sofTick; split <;> simp
@[simp] theorem sofTick_filled (s : State) : (sofTick s).filled = s.filled := by unfold sofTick; split <;> simp
@[simp] theorem sofTick_outEn (s : State) : (sofTick s).outEn = s.outEn := by unfold sofTick; split <;> simp
@[simp] theorem sofTick_ie (s : State) : (sofTick s).ie = s.ie := by unfold sofTick; split <;> simp
@[simp] theorem sofTick_cntOverflow (s : State) : (sofTick s).cntOverflow = s.cntOverflow := by unfold sofTick; split <;> simp
@[simp] theorem sofTick_cntUnderrun (s : State) : (sofTick s).cntUnderrun = s.cntUnderrun := by unfold sofTick; split <;> simp
@[simp] theorem sofTick_cntMalformed (s : State) : (sofTick s).cntMalformed = s.cntMalformed := by unfold sofTick; split <;> simp
@[simp] theorem sofTick_cntSat (s : State) : (sofTick s).cntSat = s.cntSat := by unfold sofTick; split <;> simp
@[simp] theorem sofTick_outBuf (s : State) : (sofTick s).outBuf = s.outBuf := by unfold sofTick; split <;> simp
@[simp] theorem sofTick_input (s : State) : (sofTick s).input = s.input := by unfold sofTick; split <;> simp
@[simp] theorem sofTick_draws (s : State) : (sofTick s).draws = s.draws := by unfold sofTick; split <;> simp
@[simp] theorem sofTick_resets (s : State) : (sofTick s).resets = s.resets := by unfold sofTick; split <;> simp

/-! ## `pumpData` -/

@[simp] theorem pumpData_cfg (h : BitVec 1) (s : State) : (pumpData h s).cfg = s.cfg := rfl
@[simp] theorem pumpData_mem (h : BitVec 1) (s : State) : (pumpData h s).mem = s.mem := rfl
@[simp] theorem pumpData_head (h : BitVec 1) (s : State) : (pumpData h s).head = s.head := rfl
@[simp] theorem pumpData_tailPv (h : BitVec 1) (s : State) : (pumpData h s).tailPv = s.tailPv := rfl
@[simp] theorem pumpData_headCv (h : BitVec 1) (s : State) : (pumpData h s).headCv = s.headCv := rfl
@[simp] theorem pumpData_fmt (h : BitVec 1) (s : State) : (pumpData h s).fmt = s.fmt := rfl
@[simp] theorem pumpData_rate (h : BitVec 1) (s : State) : (pumpData h s).rate = s.rate := rfl
@[simp] theorem pumpData_mute (h : BitVec 1) (s : State) : (pumpData h s).mute = s.mute := rfl
@[simp] theorem pumpData_atten (h : BitVec 1) (s : State) : (pumpData h s).atten = s.atten := rfl
@[simp] theorem pumpData_pst (h : BitVec 1) (s : State) : (pumpData h s).pst = s.pst := rfl
@[simp] theorem pumpData_filled (h : BitVec 1) (s : State) : (pumpData h s).filled = s.filled := rfl
@[simp] theorem pumpData_outEn (h : BitVec 1) (s : State) : (pumpData h s).outEn = s.outEn := rfl
@[simp] theorem pumpData_delta (h : BitVec 1) (s : State) : (pumpData h s).delta = s.delta := rfl
@[simp] theorem pumpData_sofcnt (h : BitVec 1) (s : State) : (pumpData h s).sofcnt = s.sofcnt := rfl
@[simp] theorem pumpData_fbValue (h : BitVec 1) (s : State) : (pumpData h s).fbValue = s.fbValue := rfl
@[simp] theorem pumpData_fbReady (h : BitVec 1) (s : State) : (pumpData h s).fbReady = s.fbReady := rfl
@[simp] theorem pumpData_epFree (h : BitVec 1) (s : State) : (pumpData h s).epFree = s.epFree := rfl
@[simp] theorem pumpData_pend (h : BitVec 1) (s : State) : (pumpData h s).pend = s.pend := rfl
@[simp] theorem pumpData_ie (h : BitVec 1) (s : State) : (pumpData h s).ie = s.ie := rfl
@[simp] theorem pumpData_cntOverflow (h : BitVec 1) (s : State) : (pumpData h s).cntOverflow = s.cntOverflow := rfl
@[simp] theorem pumpData_cntUnderrun (h : BitVec 1) (s : State) : (pumpData h s).cntUnderrun = s.cntUnderrun := rfl
@[simp] theorem pumpData_cntMalformed (h : BitVec 1) (s : State) : (pumpData h s).cntMalformed = s.cntMalformed := rfl
@[simp] theorem pumpData_cntSat (h : BitVec 1) (s : State) : (pumpData h s).cntSat = s.cntSat := rfl
@[simp] theorem pumpData_cntFblost (h : BitVec 1) (s : State) : (pumpData h s).cntFblost = s.cntFblost := rfl
@[simp] theorem pumpData_input (h : BitVec 1) (s : State) : (pumpData h s).input = s.input := rfl
@[simp] theorem pumpData_outputs (h : BitVec 1) (s : State) : (pumpData h s).outputs = s.outputs := rfl
@[simp] theorem pumpData_draws (h : BitVec 1) (s : State) : (pumpData h s).draws = s.draws := rfl
@[simp] theorem pumpData_resets (h : BitVec 1) (s : State) : (pumpData h s).resets = s.resets := rfl

/-! ## `pumpSat` -/

@[simp] theorem pumpSat_cfg (n : Nat) (s : State) : (pumpSat n s).cfg = s.cfg := by unfold pumpSat; split <;> simp
@[simp] theorem pumpSat_mem (n : Nat) (s : State) : (pumpSat n s).mem = s.mem := by unfold pumpSat; split <;> simp
@[simp] theorem pumpSat_head (n : Nat) (s : State) : (pumpSat n s).head = s.head := by unfold pumpSat; split <;> simp
@[simp] theorem pumpSat_tail (n : Nat) (s : State) : (pumpSat n s).tail = s.tail := by unfold pumpSat; split <;> simp
@[simp] theorem pumpSat_tailPv (n : Nat) (s : State) : (pumpSat n s).tailPv = s.tailPv := by unfold pumpSat; split <;> simp
@[simp] theorem pumpSat_headCv (n : Nat) (s : State) : (pumpSat n s).headCv = s.headCv := by unfold pumpSat; split <;> simp
@[simp] theorem pumpSat_fmt (n : Nat) (s : State) : (pumpSat n s).fmt = s.fmt := by unfold pumpSat; split <;> simp
@[simp] theorem pumpSat_rate (n : Nat) (s : State) : (pumpSat n s).rate = s.rate := by unfold pumpSat; split <;> simp
@[simp] theorem pumpSat_bl (n : Nat) (s : State) : (pumpSat n s).bl = s.bl := by unfold pumpSat; split <;> simp
@[simp] theorem pumpSat_nse (n : Nat) (s : State) : (pumpSat n s).nse = s.nse := by unfold pumpSat; split <;> simp
@[simp] theorem pumpSat_mute (n : Nat) (s : State) : (pumpSat n s).mute = s.mute := by unfold pumpSat; split <;> simp
@[simp] theorem pumpSat_atten (n : Nat) (s : State) : (pumpSat n s).atten = s.atten := by unfold pumpSat; split <;> simp
@[simp] theorem pumpSat_pst (n : Nat) (s : State) : (pumpSat n s).pst = s.pst := by unfold pumpSat; split <;> simp
@[simp] theorem pumpSat_filled (n : Nat) (s : State) : (pumpSat n s).filled = s.filled := by unfold pumpSat; split <;> simp
@[simp] theorem pumpSat_outEn (n : Nat) (s : State) : (pumpSat n s).outEn = s.outEn := by unfold pumpSat; split <;> simp
@[simp] theorem pumpSat_delta (n : Nat) (s : State) : (pumpSat n s).delta = s.delta := by unfold pumpSat; split <;> simp
@[simp] theorem pumpSat_sofcnt (n : Nat) (s : State) : (pumpSat n s).sofcnt = s.sofcnt := by unfold pumpSat; split <;> simp
@[simp] theorem pumpSat_fbValue (n : Nat) (s : State) : (pumpSat n s).fbValue = s.fbValue := by unfold pumpSat; split <;> simp
@[simp] theorem pumpSat_fbReady (n : Nat) (s : State) : (pumpSat n s).fbReady = s.fbReady := by unfold pumpSat; split <;> simp
@[simp] theorem pumpSat_epFree (n : Nat) (s : State) : (pumpSat n s).epFree = s.epFree := by unfold pumpSat; split <;> simp
@[simp] theorem pumpSat_ie (n : Nat) (s : State) : (pumpSat n s).ie = s.ie := by unfold pumpSat; split <;> simp
@[simp] theorem pumpSat_cntOverflow (n : Nat) (s : State) : (pumpSat n s).cntOverflow = s.cntOverflow := by unfold pumpSat; split <;> simp
@[simp] theorem pumpSat_cntUnderrun (n : Nat) (s : State) : (pumpSat n s).cntUnderrun = s.cntUnderrun := by unfold pumpSat; split <;> simp
@[simp] theorem pumpSat_cntMalformed (n : Nat) (s : State) : (pumpSat n s).cntMalformed = s.cntMalformed := by unfold pumpSat; split <;> simp
@[simp] theorem pumpSat_cntFblost (n : Nat) (s : State) : (pumpSat n s).cntFblost = s.cntFblost := by unfold pumpSat; split <;> simp
@[simp] theorem pumpSat_outBuf (n : Nat) (s : State) : (pumpSat n s).outBuf = s.outBuf := by unfold pumpSat; split <;> simp
@[simp] theorem pumpSat_input (n : Nat) (s : State) : (pumpSat n s).input = s.input := by unfold pumpSat; split <;> simp
@[simp] theorem pumpSat_outputs (n : Nat) (s : State) : (pumpSat n s).outputs = s.outputs := by unfold pumpSat; split <;> simp
@[simp] theorem pumpSat_draws (n : Nat) (s : State) : (pumpSat n s).draws = s.draws := by unfold pumpSat; split <;> simp
@[simp] theorem pumpSat_resets (n : Nat) (s : State) : (pumpSat n s).resets = s.resets := by unfold pumpSat; split <;> simp

/-! ## `pumpFill` -/

@[simp] theorem pumpFill_cfg (h : BitVec 1) (s : State) : (pumpFill h s).cfg = s.cfg := by unfold pumpFill; split <;> [split <;> simp; rfl]
@[simp] theorem pumpFill_mem (h : BitVec 1) (s : State) : (pumpFill h s).mem = s.mem := by unfold pumpFill; split <;> [split <;> simp; rfl]
@[simp] theorem pumpFill_head (h : BitVec 1) (s : State) : (pumpFill h s).head = s.head := by unfold pumpFill; split <;> [split <;> simp; rfl]
@[simp] theorem pumpFill_tail (h : BitVec 1) (s : State) : (pumpFill h s).tail = s.tail := by unfold pumpFill; split <;> [split <;> simp; rfl]
@[simp] theorem pumpFill_tailPv (h : BitVec 1) (s : State) : (pumpFill h s).tailPv = s.tailPv := by unfold pumpFill; split <;> [split <;> simp; rfl]
@[simp] theorem pumpFill_headCv (h : BitVec 1) (s : State) : (pumpFill h s).headCv = s.headCv := by unfold pumpFill; split <;> [split <;> simp; rfl]
@[simp] theorem pumpFill_fmt (h : BitVec 1) (s : State) : (pumpFill h s).fmt = s.fmt := by unfold pumpFill; split <;> [split <;> simp; rfl]
@[simp] theorem pumpFill_rate (h : BitVec 1) (s : State) : (pumpFill h s).rate = s.rate := by unfold pumpFill; split <;> [split <;> simp; rfl]
@[simp] theorem pumpFill_bl (h : BitVec 1) (s : State) : (pumpFill h s).bl = s.bl := by unfold pumpFill; split <;> [split <;> simp; rfl]
@[simp] theorem pumpFill_nse (h : BitVec 1) (s : State) : (pumpFill h s).nse = s.nse := by unfold pumpFill; split <;> [split <;> simp; rfl]
@[simp] theorem pumpFill_mute (h : BitVec 1) (s : State) : (pumpFill h s).mute = s.mute := by unfold pumpFill; split <;> [split <;> simp; rfl]
@[simp] theorem pumpFill_atten (h : BitVec 1) (s : State) : (pumpFill h s).atten = s.atten := by unfold pumpFill; split <;> [split <;> simp; rfl]
@[simp] theorem pumpFill_delta (h : BitVec 1) (s : State) : (pumpFill h s).delta = s.delta := by unfold pumpFill; split <;> [split <;> simp; rfl]
@[simp] theorem pumpFill_sofcnt (h : BitVec 1) (s : State) : (pumpFill h s).sofcnt = s.sofcnt := by unfold pumpFill; split <;> [split <;> simp; rfl]
@[simp] theorem pumpFill_fbValue (h : BitVec 1) (s : State) : (pumpFill h s).fbValue = s.fbValue := by unfold pumpFill; split <;> [split <;> simp; rfl]
@[simp] theorem pumpFill_fbReady (h : BitVec 1) (s : State) : (pumpFill h s).fbReady = s.fbReady := by unfold pumpFill; split <;> [split <;> simp; rfl]
@[simp] theorem pumpFill_epFree (h : BitVec 1) (s : State) : (pumpFill h s).epFree = s.epFree := by unfold pumpFill; split <;> [split <;> simp; rfl]
@[simp] theorem pumpFill_ie (h : BitVec 1) (s : State) : (pumpFill h s).ie = s.ie := by unfold pumpFill; split <;> [split <;> simp; rfl]
@[simp] theorem pumpFill_cntOverflow (h : BitVec 1) (s : State) : (pumpFill h s).cntOverflow = s.cntOverflow := by unfold pumpFill; split <;> [split <;> simp; rfl]
@[simp] theorem pumpFill_cntUnderrun (h : BitVec 1) (s : State) : (pumpFill h s).cntUnderrun = s.cntUnderrun := by unfold pumpFill; split <;> [split <;> simp; rfl]
@[simp] theorem pumpFill_cntMalformed (h : BitVec 1) (s : State) : (pumpFill h s).cntMalformed = s.cntMalformed := by unfold pumpFill; split <;> [split <;> simp; rfl]
@[simp] theorem pumpFill_cntSat (h : BitVec 1) (s : State) : (pumpFill h s).cntSat = s.cntSat := by unfold pumpFill; split <;> [split <;> simp; rfl]
@[simp] theorem pumpFill_cntFblost (h : BitVec 1) (s : State) : (pumpFill h s).cntFblost = s.cntFblost := by unfold pumpFill; split <;> [split <;> simp; rfl]
@[simp] theorem pumpFill_outBuf (h : BitVec 1) (s : State) : (pumpFill h s).outBuf = s.outBuf := by unfold pumpFill; split <;> [split <;> simp; rfl]
@[simp] theorem pumpFill_input (h : BitVec 1) (s : State) : (pumpFill h s).input = s.input := by unfold pumpFill; split <;> [split <;> simp; rfl]
@[simp] theorem pumpFill_outputs (h : BitVec 1) (s : State) : (pumpFill h s).outputs = s.outputs := by unfold pumpFill; split <;> [split <;> simp; rfl]
@[simp] theorem pumpFill_draws (h : BitVec 1) (s : State) : (pumpFill h s).draws = s.draws := by unfold pumpFill; split <;> [split <;> simp; rfl]
@[simp] theorem pumpFill_resets (h : BitVec 1) (s : State) : (pumpFill h s).resets = s.resets := by unfold pumpFill; split <;> [split <;> simp; rfl]

/-! ## `pumpRun` -/

@[simp] theorem pumpRun_cfg (h : BitVec 1) (s : State) : (pumpRun h s).cfg = s.cfg := by simp [pumpRun]
@[simp] theorem pumpRun_mem (h : BitVec 1) (s : State) : (pumpRun h s).mem = s.mem := by simp [pumpRun]
@[simp] theorem pumpRun_head (h : BitVec 1) (s : State) : (pumpRun h s).head = s.head := by simp [pumpRun]
@[simp] theorem pumpRun_tailPv (h : BitVec 1) (s : State) : (pumpRun h s).tailPv = s.tailPv := by simp [pumpRun]
@[simp] theorem pumpRun_headCv (h : BitVec 1) (s : State) : (pumpRun h s).headCv = s.headCv := by simp [pumpRun]
@[simp] theorem pumpRun_fmt (h : BitVec 1) (s : State) : (pumpRun h s).fmt = s.fmt := by simp [pumpRun]
@[simp] theorem pumpRun_rate (h : BitVec 1) (s : State) : (pumpRun h s).rate = s.rate := by simp [pumpRun]
@[simp] theorem pumpRun_mute (h : BitVec 1) (s : State) : (pumpRun h s).mute = s.mute := by simp [pumpRun]
@[simp] theorem pumpRun_atten (h : BitVec 1) (s : State) : (pumpRun h s).atten = s.atten := by simp [pumpRun]
@[simp] theorem pumpRun_delta (h : BitVec 1) (s : State) : (pumpRun h s).delta = s.delta := by simp [pumpRun]
@[simp] theorem pumpRun_sofcnt (h : BitVec 1) (s : State) : (pumpRun h s).sofcnt = s.sofcnt := by simp [pumpRun]
@[simp] theorem pumpRun_fbValue (h : BitVec 1) (s : State) : (pumpRun h s).fbValue = s.fbValue := by simp [pumpRun]
@[simp] theorem pumpRun_fbReady (h : BitVec 1) (s : State) : (pumpRun h s).fbReady = s.fbReady := by simp [pumpRun]
@[simp] theorem pumpRun_epFree (h : BitVec 1) (s : State) : (pumpRun h s).epFree = s.epFree := by simp [pumpRun]
@[simp] theorem pumpRun_ie (h : BitVec 1) (s : State) : (pumpRun h s).ie = s.ie := by simp [pumpRun]
@[simp] theorem pumpRun_cntOverflow (h : BitVec 1) (s : State) : (pumpRun h s).cntOverflow = s.cntOverflow := by simp [pumpRun]
@[simp] theorem pumpRun_cntUnderrun (h : BitVec 1) (s : State) : (pumpRun h s).cntUnderrun = s.cntUnderrun := by simp [pumpRun]
@[simp] theorem pumpRun_cntMalformed (h : BitVec 1) (s : State) : (pumpRun h s).cntMalformed = s.cntMalformed := by simp [pumpRun]
@[simp] theorem pumpRun_cntFblost (h : BitVec 1) (s : State) : (pumpRun h s).cntFblost = s.cntFblost := by simp [pumpRun]
@[simp] theorem pumpRun_input (h : BitVec 1) (s : State) : (pumpRun h s).input = s.input := by simp [pumpRun]
@[simp] theorem pumpRun_outputs (h : BitVec 1) (s : State) : (pumpRun h s).outputs = s.outputs := by simp [pumpRun]
@[simp] theorem pumpRun_draws (h : BitVec 1) (s : State) : (pumpRun h s).draws = s.draws := by simp [pumpRun]
@[simp] theorem pumpRun_resets (h : BitVec 1) (s : State) : (pumpRun h s).resets = s.resets := by simp [pumpRun]

/-! ## `pumpShort` -/

@[simp] theorem pumpShort_cfg (s : State) : (pumpShort s).cfg = s.cfg := by unfold pumpShort; split <;> simp
@[simp] theorem pumpShort_mem (s : State) : (pumpShort s).mem = s.mem := by unfold pumpShort; split <;> simp
@[simp] theorem pumpShort_head (s : State) : (pumpShort s).head = s.head := by unfold pumpShort; split <;> simp
@[simp] theorem pumpShort_tail (s : State) : (pumpShort s).tail = s.tail := by unfold pumpShort; split <;> simp
@[simp] theorem pumpShort_tailPv (s : State) : (pumpShort s).tailPv = s.tailPv := by unfold pumpShort; split <;> simp
@[simp] theorem pumpShort_headCv (s : State) : (pumpShort s).headCv = s.headCv := by unfold pumpShort; split <;> simp
@[simp] theorem pumpShort_fmt (s : State) : (pumpShort s).fmt = s.fmt := by unfold pumpShort; split <;> simp
@[simp] theorem pumpShort_rate (s : State) : (pumpShort s).rate = s.rate := by unfold pumpShort; split <;> simp
@[simp] theorem pumpShort_bl (s : State) : (pumpShort s).bl = s.bl := by unfold pumpShort; split <;> simp
@[simp] theorem pumpShort_nse (s : State) : (pumpShort s).nse = s.nse := by unfold pumpShort; split <;> simp
@[simp] theorem pumpShort_mute (s : State) : (pumpShort s).mute = s.mute := by unfold pumpShort; split <;> simp
@[simp] theorem pumpShort_atten (s : State) : (pumpShort s).atten = s.atten := by unfold pumpShort; split <;> simp
@[simp] theorem pumpShort_pst (s : State) : (pumpShort s).pst = s.pst := by unfold pumpShort; split <;> simp
@[simp] theorem pumpShort_filled (s : State) : (pumpShort s).filled = s.filled := by unfold pumpShort; split <;> simp
@[simp] theorem pumpShort_outEn (s : State) : (pumpShort s).outEn = s.outEn := by unfold pumpShort; split <;> simp
@[simp] theorem pumpShort_delta (s : State) : (pumpShort s).delta = s.delta := by unfold pumpShort; split <;> simp
@[simp] theorem pumpShort_sofcnt (s : State) : (pumpShort s).sofcnt = s.sofcnt := by unfold pumpShort; split <;> simp
@[simp] theorem pumpShort_fbValue (s : State) : (pumpShort s).fbValue = s.fbValue := by unfold pumpShort; split <;> simp
@[simp] theorem pumpShort_fbReady (s : State) : (pumpShort s).fbReady = s.fbReady := by unfold pumpShort; split <;> simp
@[simp] theorem pumpShort_epFree (s : State) : (pumpShort s).epFree = s.epFree := by unfold pumpShort; split <;> simp
@[simp] theorem pumpShort_ie (s : State) : (pumpShort s).ie = s.ie := by unfold pumpShort; split <;> simp
@[simp] theorem pumpShort_cntOverflow (s : State) : (pumpShort s).cntOverflow = s.cntOverflow := by unfold pumpShort; split <;> simp
@[simp] theorem pumpShort_cntMalformed (s : State) : (pumpShort s).cntMalformed = s.cntMalformed := by unfold pumpShort; split <;> simp
@[simp] theorem pumpShort_cntSat (s : State) : (pumpShort s).cntSat = s.cntSat := by unfold pumpShort; split <;> simp
@[simp] theorem pumpShort_cntFblost (s : State) : (pumpShort s).cntFblost = s.cntFblost := by unfold pumpShort; split <;> simp
@[simp] theorem pumpShort_outBuf (s : State) : (pumpShort s).outBuf = s.outBuf := by unfold pumpShort; split <;> simp
@[simp] theorem pumpShort_input (s : State) : (pumpShort s).input = s.input := by unfold pumpShort; split <;> simp
@[simp] theorem pumpShort_outputs (s : State) : (pumpShort s).outputs = s.outputs := by unfold pumpShort; split <;> simp
@[simp] theorem pumpShort_draws (s : State) : (pumpShort s).draws = s.draws := by unfold pumpShort; split <;> simp
@[simp] theorem pumpShort_resets (s : State) : (pumpShort s).resets = s.resets := by unfold pumpShort; split <;> simp

/-! ## `pumpNow` -/

@[simp] theorem pumpNow_cfg (h : BitVec 1) (s : State) : (pumpNow h s).cfg = s.cfg := by unfold pumpNow; split <;> simp
@[simp] theorem pumpNow_mem (h : BitVec 1) (s : State) : (pumpNow h s).mem = s.mem := by unfold pumpNow; split <;> simp
@[simp] theorem pumpNow_head (h : BitVec 1) (s : State) : (pumpNow h s).head = s.head := by unfold pumpNow; split <;> simp
@[simp] theorem pumpNow_tailPv (h : BitVec 1) (s : State) : (pumpNow h s).tailPv = s.tailPv := by unfold pumpNow; split <;> simp
@[simp] theorem pumpNow_headCv (h : BitVec 1) (s : State) : (pumpNow h s).headCv = s.headCv := by unfold pumpNow; split <;> simp
@[simp] theorem pumpNow_fmt (h : BitVec 1) (s : State) : (pumpNow h s).fmt = s.fmt := by unfold pumpNow; split <;> simp
@[simp] theorem pumpNow_rate (h : BitVec 1) (s : State) : (pumpNow h s).rate = s.rate := by unfold pumpNow; split <;> simp
@[simp] theorem pumpNow_mute (h : BitVec 1) (s : State) : (pumpNow h s).mute = s.mute := by unfold pumpNow; split <;> simp
@[simp] theorem pumpNow_atten (h : BitVec 1) (s : State) : (pumpNow h s).atten = s.atten := by unfold pumpNow; split <;> simp
@[simp] theorem pumpNow_delta (h : BitVec 1) (s : State) : (pumpNow h s).delta = s.delta := by unfold pumpNow; split <;> simp
@[simp] theorem pumpNow_sofcnt (h : BitVec 1) (s : State) : (pumpNow h s).sofcnt = s.sofcnt := by unfold pumpNow; split <;> simp
@[simp] theorem pumpNow_fbValue (h : BitVec 1) (s : State) : (pumpNow h s).fbValue = s.fbValue := by unfold pumpNow; split <;> simp
@[simp] theorem pumpNow_fbReady (h : BitVec 1) (s : State) : (pumpNow h s).fbReady = s.fbReady := by unfold pumpNow; split <;> simp
@[simp] theorem pumpNow_epFree (h : BitVec 1) (s : State) : (pumpNow h s).epFree = s.epFree := by unfold pumpNow; split <;> simp
@[simp] theorem pumpNow_ie (h : BitVec 1) (s : State) : (pumpNow h s).ie = s.ie := by unfold pumpNow; split <;> simp
@[simp] theorem pumpNow_cntOverflow (h : BitVec 1) (s : State) : (pumpNow h s).cntOverflow = s.cntOverflow := by unfold pumpNow; split <;> simp
@[simp] theorem pumpNow_cntMalformed (h : BitVec 1) (s : State) : (pumpNow h s).cntMalformed = s.cntMalformed := by unfold pumpNow; split <;> simp
@[simp] theorem pumpNow_cntFblost (h : BitVec 1) (s : State) : (pumpNow h s).cntFblost = s.cntFblost := by unfold pumpNow; split <;> simp
@[simp] theorem pumpNow_input (h : BitVec 1) (s : State) : (pumpNow h s).input = s.input := by unfold pumpNow; split <;> simp
@[simp] theorem pumpNow_outputs (h : BitVec 1) (s : State) : (pumpNow h s).outputs = s.outputs := by unfold pumpNow; split <;> simp
@[simp] theorem pumpNow_draws (h : BitVec 1) (s : State) : (pumpNow h s).draws = s.draws := by unfold pumpNow; split <;> simp
@[simp] theorem pumpNow_resets (h : BitVec 1) (s : State) : (pumpNow h s).resets = s.resets := by unfold pumpNow; split <;> simp

/-! ## `pumpWith` -/

@[simp] theorem pumpWith_cfg (k : Nat) (h : BitVec 1) (s : State) : (pumpWith k h s).cfg = s.cfg := by simp [pumpWith]
@[simp] theorem pumpWith_mem (k : Nat) (h : BitVec 1) (s : State) : (pumpWith k h s).mem = s.mem := by simp [pumpWith]
@[simp] theorem pumpWith_head (k : Nat) (h : BitVec 1) (s : State) : (pumpWith k h s).head = s.head := by simp [pumpWith]
@[simp] theorem pumpWith_tailPv (k : Nat) (h : BitVec 1) (s : State) : (pumpWith k h s).tailPv = s.tailPv := by simp [pumpWith]
@[simp] theorem pumpWith_fmt (k : Nat) (h : BitVec 1) (s : State) : (pumpWith k h s).fmt = s.fmt := by simp [pumpWith]
@[simp] theorem pumpWith_rate (k : Nat) (h : BitVec 1) (s : State) : (pumpWith k h s).rate = s.rate := by simp [pumpWith]
@[simp] theorem pumpWith_mute (k : Nat) (h : BitVec 1) (s : State) : (pumpWith k h s).mute = s.mute := by simp [pumpWith]
@[simp] theorem pumpWith_atten (k : Nat) (h : BitVec 1) (s : State) : (pumpWith k h s).atten = s.atten := by simp [pumpWith]
@[simp] theorem pumpWith_delta (k : Nat) (h : BitVec 1) (s : State) : (pumpWith k h s).delta = s.delta := by simp [pumpWith]
@[simp] theorem pumpWith_sofcnt (k : Nat) (h : BitVec 1) (s : State) : (pumpWith k h s).sofcnt = s.sofcnt := by simp [pumpWith]
@[simp] theorem pumpWith_fbValue (k : Nat) (h : BitVec 1) (s : State) : (pumpWith k h s).fbValue = s.fbValue := by simp [pumpWith]
@[simp] theorem pumpWith_fbReady (k : Nat) (h : BitVec 1) (s : State) : (pumpWith k h s).fbReady = s.fbReady := by simp [pumpWith]
@[simp] theorem pumpWith_epFree (k : Nat) (h : BitVec 1) (s : State) : (pumpWith k h s).epFree = s.epFree := by simp [pumpWith]
@[simp] theorem pumpWith_ie (k : Nat) (h : BitVec 1) (s : State) : (pumpWith k h s).ie = s.ie := by simp [pumpWith]
@[simp] theorem pumpWith_cntOverflow (k : Nat) (h : BitVec 1) (s : State) : (pumpWith k h s).cntOverflow = s.cntOverflow := by simp [pumpWith]
@[simp] theorem pumpWith_cntMalformed (k : Nat) (h : BitVec 1) (s : State) : (pumpWith k h s).cntMalformed = s.cntMalformed := by simp [pumpWith]
@[simp] theorem pumpWith_cntFblost (k : Nat) (h : BitVec 1) (s : State) : (pumpWith k h s).cntFblost = s.cntFblost := by simp [pumpWith]
@[simp] theorem pumpWith_input (k : Nat) (h : BitVec 1) (s : State) : (pumpWith k h s).input = s.input := by simp [pumpWith]
@[simp] theorem pumpWith_outputs (k : Nat) (h : BitVec 1) (s : State) : (pumpWith k h s).outputs = s.outputs := by simp [pumpWith]
@[simp] theorem pumpWith_resets (k : Nat) (h : BitVec 1) (s : State) : (pumpWith k h s).resets = s.resets := by simp [pumpWith]

/-! ## `configureStream` -/

@[simp] theorem configureStream_cfg (f : Fmt) (r : Rate) (s : State) : (configureStream f r s).cfg = s.cfg := by unfold configureStream; split <;> simp
@[simp] theorem configureStream_mem (f : Fmt) (r : Rate) (s : State) : (configureStream f r s).mem = s.mem := by unfold configureStream; split <;> simp
@[simp] theorem configureStream_mute (f : Fmt) (r : Rate) (s : State) : (configureStream f r s).mute = s.mute := by unfold configureStream; split <;> simp
@[simp] theorem configureStream_atten (f : Fmt) (r : Rate) (s : State) : (configureStream f r s).atten = s.atten := by unfold configureStream; split <;> simp
@[simp] theorem configureStream_outEn (f : Fmt) (r : Rate) (s : State) : (configureStream f r s).outEn = s.outEn := by unfold configureStream; split <;> simp
@[simp] theorem configureStream_epFree (f : Fmt) (r : Rate) (s : State) : (configureStream f r s).epFree = s.epFree := by unfold configureStream; split <;> simp
@[simp] theorem configureStream_ie (f : Fmt) (r : Rate) (s : State) : (configureStream f r s).ie = s.ie := by unfold configureStream; split <;> simp
@[simp] theorem configureStream_cntOverflow (f : Fmt) (r : Rate) (s : State) : (configureStream f r s).cntOverflow = s.cntOverflow := by unfold configureStream; split <;> simp
@[simp] theorem configureStream_cntUnderrun (f : Fmt) (r : Rate) (s : State) : (configureStream f r s).cntUnderrun = s.cntUnderrun := by unfold configureStream; split <;> simp
@[simp] theorem configureStream_cntMalformed (f : Fmt) (r : Rate) (s : State) : (configureStream f r s).cntMalformed = s.cntMalformed := by unfold configureStream; split <;> simp
@[simp] theorem configureStream_cntSat (f : Fmt) (r : Rate) (s : State) : (configureStream f r s).cntSat = s.cntSat := by unfold configureStream; split <;> simp
@[simp] theorem configureStream_cntFblost (f : Fmt) (r : Rate) (s : State) : (configureStream f r s).cntFblost = s.cntFblost := by unfold configureStream; split <;> simp
@[simp] theorem configureStream_outBuf (f : Fmt) (r : Rate) (s : State) : (configureStream f r s).outBuf = s.outBuf := by unfold configureStream; split <;> simp
@[simp] theorem configureStream_input (f : Fmt) (r : Rate) (s : State) : (configureStream f r s).input = s.input := by unfold configureStream; split <;> simp
@[simp] theorem configureStream_outputs (f : Fmt) (r : Rate) (s : State) : (configureStream f r s).outputs = s.outputs := by unfold configureStream; split <;> simp
@[simp] theorem configureStream_draws (f : Fmt) (r : Rate) (s : State) : (configureStream f r s).draws = s.draws := by unfold configureStream; split <;> simp
@[simp] theorem configureStream_resets (f : Fmt) (r : Rate) (s : State) : (configureStream f r s).resets = s.resets := by unfold configureStream; split <;> simp

/-! ## `configureStop` -/

@[simp] theorem configureStop_cfg (s : State) : (configureStop s).cfg = s.cfg := by unfold configureStop; split <;> simp
@[simp] theorem configureStop_mem (s : State) : (configureStop s).mem = s.mem := by unfold configureStop; split <;> simp
@[simp] theorem configureStop_head (s : State) : (configureStop s).head = s.head := by unfold configureStop; split <;> simp
@[simp] theorem configureStop_tail (s : State) : (configureStop s).tail = s.tail := by unfold configureStop; split <;> simp
@[simp] theorem configureStop_tailPv (s : State) : (configureStop s).tailPv = s.tailPv := by unfold configureStop; split <;> simp
@[simp] theorem configureStop_headCv (s : State) : (configureStop s).headCv = s.headCv := by unfold configureStop; split <;> simp
@[simp] theorem configureStop_rate (s : State) : (configureStop s).rate = s.rate := by unfold configureStop; split <;> simp
@[simp] theorem configureStop_bl (s : State) : (configureStop s).bl = s.bl := by unfold configureStop; split <;> simp
@[simp] theorem configureStop_nse (s : State) : (configureStop s).nse = s.nse := by unfold configureStop; split <;> simp
@[simp] theorem configureStop_mute (s : State) : (configureStop s).mute = s.mute := by unfold configureStop; split <;> simp
@[simp] theorem configureStop_atten (s : State) : (configureStop s).atten = s.atten := by unfold configureStop; split <;> simp
@[simp] theorem configureStop_delta (s : State) : (configureStop s).delta = s.delta := by unfold configureStop; split <;> simp
@[simp] theorem configureStop_sofcnt (s : State) : (configureStop s).sofcnt = s.sofcnt := by unfold configureStop; split <;> simp
@[simp] theorem configureStop_fbValue (s : State) : (configureStop s).fbValue = s.fbValue := by unfold configureStop; split <;> simp
@[simp] theorem configureStop_fbReady (s : State) : (configureStop s).fbReady = s.fbReady := by unfold configureStop; split <;> simp
@[simp] theorem configureStop_epFree (s : State) : (configureStop s).epFree = s.epFree := by unfold configureStop; split <;> simp
@[simp] theorem configureStop_ie (s : State) : (configureStop s).ie = s.ie := by unfold configureStop; split <;> simp
@[simp] theorem configureStop_cntOverflow (s : State) : (configureStop s).cntOverflow = s.cntOverflow := by unfold configureStop; split <;> simp
@[simp] theorem configureStop_cntUnderrun (s : State) : (configureStop s).cntUnderrun = s.cntUnderrun := by unfold configureStop; split <;> simp
@[simp] theorem configureStop_cntMalformed (s : State) : (configureStop s).cntMalformed = s.cntMalformed := by unfold configureStop; split <;> simp
@[simp] theorem configureStop_cntSat (s : State) : (configureStop s).cntSat = s.cntSat := by unfold configureStop; split <;> simp
@[simp] theorem configureStop_cntFblost (s : State) : (configureStop s).cntFblost = s.cntFblost := by unfold configureStop; split <;> simp
@[simp] theorem configureStop_outBuf (s : State) : (configureStop s).outBuf = s.outBuf := by unfold configureStop; split <;> simp
@[simp] theorem configureStop_input (s : State) : (configureStop s).input = s.input := by unfold configureStop; split <;> simp
@[simp] theorem configureStop_outputs (s : State) : (configureStop s).outputs = s.outputs := by unfold configureStop; split <;> simp
@[simp] theorem configureStop_draws (s : State) : (configureStop s).draws = s.draws := by unfold configureStop; split <;> simp
@[simp] theorem configureStop_resets (s : State) : (configureStop s).resets = s.resets := by unfold configureStop; split <;> simp

end Sys2Proof.Machine
end

