-- ==== Sys2Proof/Laws/Decode.lean ====
section
/-! SUPPORT. A command word as opcode, reserved zeros and operand bits (30_encoding.md R91, R92): reading each part of a
word built from the three, and building a word back from its parts. -/

namespace Sys2Proof

open Machine

theorem opcode_row {z k : Nat} (o : BitVec 4) (x : BitVec k) (h : 4 + z + k = 32) :
    opcode (BitVec.cast h (o ++ 0#z ++ x)) = o := by
  unfold opcode; ext i hi
  simp only [BitVec.getElem_extractLsb', BitVec.getLsbD_cast, BitVec.getLsbD_append]
  rw [if_neg (by omega), if_neg (by omega), BitVec.getLsbD_eq_getElem (by omega)]
  congr 1; omega

theorem operand_row {z k : Nat} (o : BitVec 4) (x : BitVec k) (h : 4 + z + k = 32) :
    (BitVec.cast h (o ++ 0#z ++ x)).extractLsb' 0 k = x := by
  ext i hi
  simp only [BitVec.getElem_extractLsb', BitVec.getLsbD_cast, BitVec.getLsbD_append]
  rw [if_pos (by omega), BitVec.getLsbD_eq_getElem (by omega)]
  congr 1; omega

theorem reserved_row {z k : Nat} (o : BitVec 4) (x : BitVec k) (h : 4 + z + k = 32) :
    ((BitVec.cast h (o ++ 0#z ++ x)).setWidth 28) >>> k = 0 := by
  ext i hi
  simp only [BitVec.getElem_ushiftRight, BitVec.getLsbD_setWidth, BitVec.getLsbD_cast, BitVec.getLsbD_append,
    BitVec.getElem_zero, BitVec.ofNat_eq_ofNat]
  by_cases h2 : k + i < 28
  · rw [if_neg (by omega), if_pos (by omega)]; simp
  · simp [h2]

/-- A word whose reserved bits are 0 is its opcode, zeros, and its operand bits. -/
theorem word_of_parts {z k : Nat} (w : Word) (h : 4 + z + k = 32) (hr : (w.setWidth 28) >>> k = 0) :
    w = BitVec.cast h (opcode w ++ 0#z ++ w.extractLsb' 0 k) := by
  ext i hi
  simp only [opcode, BitVec.getElem_cast, BitVec.getElem_append, BitVec.getElem_extractLsb', BitVec.getElem_zero]
  split
  · rw [BitVec.getLsbD_eq_getElem (by omega)]; congr 1; omega
  · split
    · have h1 : (((w.setWidth 28) >>> k).getLsbD (i - k)) = false := by rw [hr]; simp
      simp only [BitVec.getLsbD_ushiftRight, BitVec.getLsbD_setWidth] at h1
      rw [show k + (i - k) = i by omega] at h1
      rw [BitVec.getLsbD_eq_getElem hi] at h1
      simpa [show i < 28 by omega] using h1
    · rw [BitVec.getLsbD_eq_getElem (by omega)]; congr 1; omega

/-- What a row accepts: reserved bits 0 and the port in the row's column (30_encoding.md R94). -/
theorem checkRow_eq_ok {k : Nat} {ports : List Port} {p : Port} {w : Word} {i j : Instr} :
    checkRow k ports p w i = .ok j ↔ (w.setWidth 28) >>> k = 0 ∧ p ∈ ports ∧ i = j := by
  unfold checkRow; split <;> [simp_all; (split <;> simp_all)]

end Sys2Proof
end

