-- ==== Sys2Proof/Laws/Memory.lean ====
section
/-! SUPPORT. Bytes by address: a read after a write, and that every write keeps the canonical form. -/

namespace Sys2Proof.Machine

theorem Memory.read?_write (m : Memory) (a b : Nat) (v : Byte) :
    Memory.read? (Memory.write m a v) b = if b = a then some v else Memory.read? m b := by
  induction m with
  | nil => simp [Memory.write, Memory.read?]
  | cons cell rest ih =>
    obtain ⟨k, w⟩ := cell
    simp only [Memory.write]
    split
    · simp only [Memory.read?]
    · split
      · subst_vars; simp only [Memory.read?]; split <;> simp_all
      · simp only [Memory.read?, ih]; split <;> [(subst_vars; split <;> simp_all); rfl]

@[simp] theorem Memory.read?_write_same (m : Memory) (a : Nat) (v : Byte) :
    Memory.read? (Memory.write m a v) a = some v := by simp [Memory.read?_write]

theorem Memory.read?_write_ne {m : Memory} {a b : Nat} {v : Byte} (h : b ≠ a) :
    Memory.read? (Memory.write m a v) b = Memory.read? m b := by simp [Memory.read?_write, h]

/-- The canonical form, with a lower bound: every address is at least `lo`. -/
theorem Memory.wf_cons {k : Nat} {v : Byte} {rest : Memory} :
    Memory.wf ((k, v) :: rest) = true ↔ Memory.wf rest = true ∧ ∀ c ∈ rest.head?, k < c.1 := by
  cases rest with
  | nil => simp [Memory.wf]
  | cons c rest => obtain ⟨k', v'⟩ := c; simp [Memory.wf, and_comm]

theorem Memory.head?_write (m : Memory) (a : Nat) (b : Byte) :
    ∀ c ∈ (Memory.write m a b).head?, c.1 = a ∨ ∃ d ∈ m.head?, c.1 = d.1 := by
  cases m with
  | nil => simp [Memory.write]
  | cons cell rest =>
    obtain ⟨k, w⟩ := cell
    simp only [Memory.write]
    split
    · simp
    · split <;> simp

/-- Every write keeps the canonical form. -/
theorem Memory.wf_write {m : Memory} (h : Memory.wf m = true) (a : Nat) (b : Byte) :
    Memory.wf (Memory.write m a b) = true := by
  induction m with
  | nil => simp [Memory.write, Memory.wf]
  | cons cell rest ih =>
    obtain ⟨k, w⟩ := cell
    simp only [Memory.write]
    split
    · simp only [Memory.wf, Bool.and_eq_true, decide_eq_true_eq]; exact ⟨‹_›, h⟩
    · rw [Memory.wf_cons] at h
      split
      · subst_vars; exact Memory.wf_cons.mpr h
      · refine Memory.wf_cons.mpr ⟨ih h.1, fun c hc => ?_⟩
        rcases Memory.head?_write rest a b c hc with h' | ⟨d, hd, h'⟩
        · omega
        · rw [h']; exact h.2 d hd

theorem Memory.mem_write {m : Memory} {a : Nat} {b : Byte} {c : Host.Cell} (h : c ∈ Memory.write m a b) :
    c = (a, b) ∨ c ∈ m := by
  induction m with
  | nil => simpa [Memory.write] using h
  | cons cell rest ih =>
    obtain ⟨k, w⟩ := cell
    simp only [Memory.write] at h
    split at h
    · simp_all
    · split at h
      · simp only [List.mem_cons] at h ⊢; tauto
      · simp only [List.mem_cons] at h ⊢; rcases h with h | h
        · tauto
        · rcases ih h with h | h <;> tauto

theorem Memory.below_write {m : Memory} {bound a : Nat} (h : Memory.below m bound = true) (ha : a < bound) (b : Byte) :
    Memory.below (Memory.write m a b) bound = true := by
  simp only [Memory.below, List.all_eq_true, decide_eq_true_eq] at *
  intro c hc; rcases Memory.mem_write hc with rfl | hc
  · exact ha
  · exact h c hc

theorem Memory.atLeast_write {m : Memory} {bound a : Nat} (h : Memory.atLeast m bound = true) (ha : bound ≤ a)
    (b : Byte) : Memory.atLeast (Memory.write m a b) bound = true := by
  simp only [Memory.atLeast, List.all_eq_true, decide_eq_true_eq] at *
  intro c hc; rcases Memory.mem_write hc with rfl | hc
  · exact ha
  · exact h c hc

/-! ## Bytes written in a row -/

theorem ringWrites_wf {size : Nat} {m : Memory} (h : Memory.wf m = true) (start : Nat) (bs : List Byte) :
    Memory.wf (ringWrites size m start bs) = true := by
  induction bs generalizing m start with
  | nil => exact h
  | cons b bs ih => exact ih (Memory.wf_write h _ _) _

theorem ringWrites_below {size : Nat} (hs : 0 < size) {m : Memory} (h : Memory.below m size = true) (start : Nat)
    (bs : List Byte) : Memory.below (ringWrites size m start bs) size = true := by
  induction bs generalizing m start with
  | nil => exact h
  | cons b bs ih => exact ih (Memory.below_write h (Nat.mod_lt _ hs) _) _

/-- A slot that none of the written indices falls on keeps its byte. -/
theorem ringWrites_read_other {size : Nat} {m : Memory} {start slot : Nat} {bs : List Byte}
    (h : ∀ i < bs.length, (start + i) % size ≠ slot) :
    Memory.read? (ringWrites size m start bs) slot = Memory.read? m slot := by
  induction bs generalizing m start with
  | nil => rfl
  | cons b bs ih =>
    simp only [ringWrites]
    rw [ih (fun i hi => by have := h (i + 1) (by simpa using hi); rwa [show start + (i + 1) = start + 1 + i by omega] at this)]
    exact Memory.read?_write_ne (fun e => h 0 (by simp) (by simpa using e.symm))

/-- Slot `start + i` holds byte `i` of a list no longer than the ring. -/
theorem ringWrites_read {size : Nat} {m : Memory} {start i : Nat} {bs : List Byte} (hi : i < bs.length)
    (hn : bs.length ≤ size) : Memory.read? (ringWrites size m start bs) ((start + i) % size) = some bs[i] := by
  induction bs generalizing m start i with
  | nil => simp at hi
  | cons b bs ih =>
    simp only [ringWrites]
    cases i with
    | zero =>
      rw [ringWrites_read_other]
      · simp
      · intro i hi' e
        simp only [List.length_cons] at hn
        have : (start + 1 + i) % size = (start + 0) % size := e
        have h2 : (i + 1) % size = 0 := by
          have h3 : (start + (i + 1)) ≡ start + 0 [MOD size] := by
            unfold Nat.ModEq; rw [← this]; congr 1; omega
          have := Nat.ModEq.add_left_cancel' start h3
          simpa [Nat.ModEq] using this
        rw [Nat.mod_eq_of_lt (by omega)] at h2; omega
    | succ i =>
      simp only [List.length_cons] at hi hn
      rw [show start + (i + 1) = start + 1 + i by omega, ih (by omega) (by omega)]; simp

theorem memWrite2_read (m : Memory) (a b : Nat) (v : BitVec 16) :
    Memory.read? (memWrite2 m a v) b =
      if b = a + 1 then some (v.extractLsb' 8 8) else if b = a then some (v.extractLsb' 0 8) else Memory.read? m b := by
  simp [memWrite2, Memory.read?_write]

theorem memWrite2_wf {m : Memory} (h : Memory.wf m = true) (a : Nat) (v : BitVec 16) :
    Memory.wf (memWrite2 m a v) = true := Memory.wf_write (Memory.wf_write h _ _) _ _

theorem writeCodes_wf {m : Memory} (h : Memory.wf m = true) (a : Nat) (qs : List Int) :
    Memory.wf (writeCodes m a qs) = true := by
  induction qs generalizing m a with
  | nil => exact h
  | cons q qs ih => exact ih (memWrite2_wf h _ _) _

/-- A byte outside the written halfwords keeps its value. -/
theorem writeCodes_read_other {m : Memory} {a b : Nat} {qs : List Int} (h : b < a ∨ a + 2 * qs.length ≤ b) :
    Memory.read? (writeCodes m a qs) b = Memory.read? m b := by
  induction qs generalizing m a with
  | nil => rfl
  | cons q qs ih =>
    simp only [List.length_cons] at h
    simp only [writeCodes]
    rw [ih (by omega), memWrite2_read, if_neg (by omega), if_neg (by omega)]

/-- Halfword `i` holds code `i`, its low byte first (20_memory.md R63). -/
theorem writeCodes_read {m : Memory} {a i : Nat} {qs : List Int} (hi : i < qs.length) :
    Memory.read? (writeCodes m a qs) (a + 2 * i) = some ((BitVec.ofInt 16 qs[i]).extractLsb' 0 8) ∧
    Memory.read? (writeCodes m a qs) (a + 2 * i + 1) = some ((BitVec.ofInt 16 qs[i]).extractLsb' 8 8) := by
  induction qs generalizing m a i with
  | nil => simp at hi
  | cons q qs ih =>
    simp only [writeCodes]
    cases i with
    | zero =>
      constructor
      · rw [writeCodes_read_other (by omega), memWrite2_read]; simp
      · rw [writeCodes_read_other (by omega), memWrite2_read]; simp
    | succ i =>
      simp only [List.length_cons] at hi
      have := ih (m := memWrite2 m a (BitVec.ofInt 16 q)) (a := a + 2) (i := i) (by omega)
      rw [show a + 2 * (i + 1) = a + 2 + 2 * i by omega]; simpa using this

theorem memWrite2_below {m : Memory} {bound a : Nat} (h : Memory.below m bound = true) (ha : a + 1 < bound)
    (v : BitVec 16) : Memory.below (memWrite2 m a v) bound = true :=
  Memory.below_write (Memory.below_write h (by omega) _) ha _

theorem writeCodes_below {m : Memory} {bound a : Nat} {qs : List Int} (h : Memory.below m bound = true)
    (ha : a + 2 * qs.length ≤ bound) : Memory.below (writeCodes m a qs) bound = true := by
  induction qs generalizing m a with
  | nil => exact h
  | cons q qs ih =>
    simp only [List.length_cons] at ha
    exact ih (memWrite2_below h (by omega) _) (by omega)

theorem writeCodes_atLeast {m : Memory} {bound a : Nat} {qs : List Int} (h : Memory.atLeast m bound = true)
    (ha : bound ≤ a) : Memory.atLeast (writeCodes m a qs) bound = true := by
  induction qs generalizing m a with
  | nil => exact h
  | cons q qs ih =>
    exact ih (Memory.atLeast_write (Memory.atLeast_write h (by omega) _) (by omega) _) (by omega)

end Sys2Proof.Machine
end

