-- ==== Sys2Proof/Laws/Exec.lean ====
section
/-! SUPPORT. What `exec` answers: always a next state, and which one. -/

namespace Sys2Proof.Machine

/-- Everything a command can do: the one next state of each. -/
theorem exec_next_cases {i : Instr} {s t : State} (h : exec i s = .next t) :
    match i with
    | .nop => t = s
    | .put len b => t = putWith (drawView s.lagP s.draws) len b s
    | .sof => t = sofTick s
    | .fbDone => t = trySend { s with epFree := true }
    | .configure f r => t = if f = .none then configureStop s else configureStream f r s
    | .setMute m => t = { s with mute := m }
    | .setAtten x => t = { s with atten := min x.toNat s.cfg.attenMax }
    | .pump h => t = if s.pst = .closed then s else pumpWith (drawView s.lagC s.draws) h s
    | .outDone => t = if s.pst = .drain then raise .statechg 0 (enterClosed s) else s
    | .csrRead a => t = match s.csrValue? a with | some v => respond .control v s | none => respond .control 0 (raise .illegal a.toNat s)
    | .setIe m => t = { s with ie := m }
    | .ack m => t = clearPending m s := by
  cases i <;> simp only [exec, execNop, execPut, execSof, execFbDone, execConfigure, execSetMute,
    execSetAtten, execPump, execOutDone, execCsrRead, execSetIe, execAck] at h ⊢
  case configure => split at h <;> simp_all
  case pump => split at h <;> simp_all
  case outDone => split at h <;> simp_all
  case csrRead => split at h <;> simp_all
  all_goals (cases h; rfl)

/-- No command stops the machine. -/
theorem exec_answers_next (i : Instr) (s : State) : ∃ t, exec i s = .next t := by
  cases i <;> simp only [exec, execNop, execPut, execSof, execFbDone, execConfigure, execSetMute,
    execSetAtten, execPump, execOutDone, execCsrRead, execSetIe, execAck]
  case configure => split <;> exact ⟨_, rfl⟩
  case pump => split <;> exact ⟨_, rfl⟩
  case outDone => split <;> exact ⟨_, rfl⟩
  case csrRead => split <;> exact ⟨_, rfl⟩
  all_goals exact ⟨_, rfl⟩

end Sys2Proof.Machine
end

