-- ==== Sys2Proof/Laws/Legal.lean ====
section
/-! SUPPORT. What 00_scope.md R8 says of a legal configuration, as plain facts. -/

namespace Sys2Proof.Machine

/-- The constraints of 00_scope.md R8 that the other lemmas use. -/
structure LegalFacts (c : Config) : Prop where
  rb1 : 1 ≤ c.rbLog2
  rb : c.rbLog2 ≤ 16
  nch : c.nch = 2 ∨ c.nch = 3
  of1 : 1 ≤ c.outFrames
  of : c.outFrames ≤ 65535
  p1 : 1 ≤ c.phaseLen
  p : c.phaseLen ≤ 65535
  cf : c.coefFrac ≤ 31
  pw2 : 2 ≤ c.pwmBits
  pw : c.pwmBits ≤ 16
  ns3 : 3 ≤ c.nsOrder
  ns : c.nsOrder ≤ 5
  am1 : 1 ≤ c.attenMax
  am : c.attenMax ≤ 255
  ss : c.sofShift ≤ 15
  u1 : ∀ r, 1 ≤ (c.at r).u
  u : ∀ r, (c.at r).u ≤ 255
  div : ∀ r, c.outFrames % (c.at r).u = 0
  coefs : ∀ r, (c.at r).coef.length = (c.at r).u * c.phaseLen
  fb1 : ∀ r, (c.at r).fbMin ≤ (c.at r).nom
  fb2 : ∀ r, (c.at r).nom ≤ (c.at r).fbMax
  fb3 : ∀ r, (c.at r).fbMax ≤ 2 ^ 24 - 1
  chunks : ∀ r f, 2 * c.chunk f r ≤ c.rbSize
  gain : ∀ g ∈ c.gain, g ≤ 32768
  gainLen : c.gain.length = c.attenMax + 1
  gainLast : c.gain[c.attenMax]? = some 0

theorem legal_facts {c : Config} (h : c.legal = true) : LegalFacts c := by
  simp only [Config.legal, Config.legalRate, Config.legalGain, decide_eq_true_eq, List.all_eq_true] at h
  constructor
  case u1 => intro r; cases r <;> simp only [Config.at] at * <;> omega
  case u => intro r; cases r <;> simp only [Config.at] at * <;> omega
  case div => intro r; cases r <;> simp only [Config.at] at * <;> omega
  case coefs => intro r; cases r <;> simp only [Config.at] at * <;> omega
  case fb1 => intro r; cases r <;> simp only [Config.at] at * <;> omega
  case fb2 => intro r; cases r <;> simp only [Config.at] at * <;> omega
  case fb3 => intro r; cases r <;> simp only [Config.at] at * <;> omega
  case chunks =>
    intro r f
    have : c.chunk .none r = 0 := by simp [Config.chunk, Fmt.frameBytes, Fmt.bytesPerSample]
    cases r <;> cases f <;> omega
  case gain => tauto
  case gainLast => tauto
  all_goals omega

/-- `FPP * U = OUT_FRAMES` (00_scope.md R8, R10). -/
theorem fpp_mul_ratio {c : Config} (L : LegalFacts c) (r : Rate) : c.framesPerPump r * (c.at r).u = c.outFrames := by
  unfold Config.framesPerPump; exact Nat.div_mul_cancel (Nat.dvd_of_mod_eq_zero (L.div r))

end Sys2Proof.Machine
end

