-- ==== Sys2Proof/Laws/Filter.lean ====
section
/-! SUPPORT. Ranges and sizes along the data path and in the feedback controller. -/

namespace Sys2Proof.Machine

/-- `floorShift` is the Euclidean quotient by a power of two, which rounds toward minus infinity (00_scope.md R12). -/
theorem floorShift_eq (v : Int) (k : Nat) : floorShift v k = v / 2 ^ k := by simp [floorShift]

/-- `floorShift` is the floor it is named for (00_scope.md R12). -/
theorem floorShift_floorOf (v : Int) (k : Nat) : FloorOf v k (floorShift v k) := by
  rw [floorShift_eq]
  exact ⟨Int.ediv_mul_le _ (by positivity), Int.lt_ediv_add_one_mul_self _ (by positivity)⟩

/-- Every computed feedback value lies within the bounds (44_feedback.md R222). -/
theorem fbComputeAt_range {c : Config} (L : LegalFacts c) (p : PumpState) (r : Rate) (d : Nat) :
    ((c.at r).fbMin : Int) ≤ fbComputeAt c p r d ∧ fbComputeAt c p r d ≤ (c.at r).fbMax := by
  have h1 := L.fb1 r; have h2 := L.fb2 r
  unfold fbComputeAt clamp; split <;> [skip; (split <;> [skip; split])] <;> omega

/-- A computed feedback value fits its 24-bit register (44_feedback.md R222). -/
theorem fbComputeAt_register {c : Config} (L : LegalFacts c) (p : PumpState) (r : Rate) (d : Nat) :
    ((BitVec.ofInt 24 (fbComputeAt c p r d)).toNat : Int) = fbComputeAt c p r d := by
  have h := fbComputeAt_range L p r d
  have h3 := L.fb3 r
  rw [BitVec.toNat_ofInt, Int.toNat_of_nonneg (by apply Int.emod_nonneg; norm_num)]
  apply Int.emod_eq_of_lt <;> norm_num at * <;> omega

theorem sampleAt_range {x : List (List Int)} (h : ∀ f ∈ x, ∀ v ∈ f, -2 ^ 31 ≤ v ∧ v ≤ 2 ^ 31 - 1) (n c : Nat) :
    -2147483648 ≤ sampleAt x n c ∧ sampleAt x n c ≤ 2147483647 := by
  unfold sampleAt
  by_cases h1 : n < x.length
  · rw [List.getD_eq_getElem _ _ h1]
    by_cases h2 : c < (x[n]).length
    · rw [List.getD_eq_getElem _ _ h2]; have := h _ (List.getElem_mem h1) _ (List.getElem_mem h2); omega
    · rw [List.getD_eq_default (x[n]) _ (by omega)]; omega
  · rw [List.getD_eq_default x _ (by omega)]; simp

/-- Every window sample is a 32-bit sample (42_upsampler.md R180). -/
theorem window_range {x : List (List Int)} (h : ∀ f ∈ x, ∀ v ∈ f, -2 ^ 31 ≤ v ∧ v ≤ 2 ^ 31 - 1) (bl n c j) :
    -2147483648 ≤ window bl x n c j ∧ window bl x n c j ≤ 2147483647 := by
  unfold window; split
  · exact sampleAt_range h _ _
  · exact reg_range _

theorem clampEvents_zero {raw : List (List Int)} (h : ∀ f ∈ raw, ∀ v ∈ f, -2147483648 ≤ v ∧ v ≤ 2147483647) : clampEvents raw = 0 := by
  unfold clampEvents
  rw [List.sum_eq_zero_iff]; intro a ha
  obtain ⟨f, hf, rfl⟩ := List.mem_map.mp ha
  rw [List.countP_eq_zero]; intro v hv
  simp [sat32_of_range (h f hf v hv).1 (h f hf v hv).2]

/-- OUT_FRAMES output frames of NCH samples (42_upsampler.md R182). -/
theorem upsampleRaw_length (c : Config) (L : LegalFacts c) (r bl x) :
    (upsampleRaw c r bl x).length = c.outFrames ∧ ∀ f ∈ upsampleRaw c r bl x, f.length = c.nch := by
  constructor
  · unfold upsampleRaw; rw [List.length_flatMap]; simp only [List.length_map, List.length_range]
    rw [List.map_const', List.sum_replicate]; simp [fpp_mul_ratio L]
  · intro f hf
    simp only [upsampleRaw, List.mem_flatMap, List.mem_map, List.mem_range] at hf
    obtain ⟨n, _, p, hp, rfl⟩ := hf; simp

/-- Shaping a sequence of frames in two parts: the second part starts from the rows the first left (43_noise_shaper.md
R203). -/
theorem shapeFrames_append (c : Config) (rows) (a b : List (List Int)) :
    (shapeFrames c rows (a ++ b)).codes =
      (shapeFrames c rows a).codes ++ (shapeFrames c (shapeFrames c rows a).rows b).codes ∧
    (shapeFrames c rows (a ++ b)).rows = (shapeFrames c (shapeFrames c rows a).rows b).rows ∧
    (shapeFrames c rows (a ++ b)).sats = (shapeFrames c rows a).sats + (shapeFrames c (shapeFrames c rows a).rows b).sats := by
  induction a generalizing rows with
  | nil => simp [shapeFrames]
  | cons f fs ih =>
    obtain ⟨h1, h2, h3⟩ := ih ((shapeFrame c rows f).map Shaped.row)
    simp only [List.cons_append, shapeFrames, h1, h2, h3, List.append_assoc]
    refine ⟨trivial, trivial, ?_⟩; omega

/-- Channel `k` of one output frame is shaped with its own row (43_noise_shaper.md R203). -/
theorem shapeFrame_channel (c : Config) (rows) (f : List Int) {k : Nat} (hk : k < c.nch) :
    (shapeFrame c rows f)[k]? = some (shape c (rows.getD k []) (f.getD k 0)) := by
  unfold shapeFrame; rw [List.getElem?_map, List.getElem?_range hk]; rfl

theorem shapeFrames_codes_length (c : Config) (rows) (fs : List (List Int)) : (shapeFrames c rows fs).codes.length = fs.length * c.nch := by
  induction fs generalizing rows with
  | nil => simp [shapeFrames]
  | cons f fs ih => 
    simp only [shapeFrames, List.length_append, ih, List.length_cons, List.length_map]
    simp [shapeFrame, Nat.succ_mul]; omega

/-- One code for each element of a half (45_pump_control.md R252). -/
theorem pumpShaped_codes_length {s : State} (L : LegalFacts s.cfg) : s.pumpShaped.codes.length = s.cfg.outFrames * s.cfg.nch := by
  unfold State.pumpShaped; rw [shapeFrames_codes_length]
  unfold clampFrames State.pumpRaw; rw [List.length_map, (upsampleRaw_length _ L _ _ _).1]

theorem shapeFrames_rows_shape (c : Config) (rows) (fs : List (List Int)) (h : hasShape rows c.nch c.nsOrder) :
    hasShape (shapeFrames c rows fs).rows c.nch c.nsOrder := by
  induction fs generalizing rows with
  | nil => exact h
  | cons f fs ih =>
    apply ih
    constructor
    · simp [shapeFrame]
    · intro row hr
      simp only [List.mem_map, shapeFrame] at hr
      obtain ⟨sh, ⟨i, _, rfl⟩, rfl⟩ := hr
      simp [shape, shiftErrors]

theorem shiftBacklog_shape (c fpp bl x) : hasShape (shiftBacklog c fpp bl x) c.nch (c.phaseLen - 1) := by
  constructor
  · simp [shiftBacklog]
  · intro row hr; simp only [shiftBacklog, List.mem_map] at hr; obtain ⟨i, _, rfl⟩ := hr; simp

end Sys2Proof.Machine
end

