-- ==== Sys2Proof/Laws/PerInstr.lean ====
section
/-! SUPPORT. One statement about every command as syntax: its word carries the opcode of opcode_table.json, has the fixed
bits of its row, and asks for exactly the payload the command carries. -/

namespace Sys2Proof.Laws.EncodedOpcode

/-- The word of a well-formed command fits the table's row of its mnemonic, that row's ports are the command's, and the
word asks for as many payload bytes as the command has (30_encoding.md R90 to R92). -/
def Statement (i : Instr) : Prop :=
  i.wellFormed = true →
    (∃ row ∈ opcodeRows, row.mnemonic = i.mnemonic ∧ row.fits i.word = true ∧ row.ports = i.ports) ∧
    i.payloadBytes.length = payloadLength i.word

/-- A word with opcode 1 apart from its operand, or another opcode, asks for the payload R90 gives it. -/
theorem payloadLength_of_row {z k : Nat} (o : BitVec 4) (x : BitVec k) (h : 4 + z + k = 32) (ho : o ≠ 1) :
    payloadLength (BitVec.cast h (o ++ 0#z ++ x)) = 0 := by
  unfold payloadLength; rw [opcode_row, if_neg ho]

/-- The fixed bits of a row: the opcode, and zeros down to the operand. -/
theorem masked_row {z k : Nat} (o : BitVec 4) (x : BitVec k) (h : 4 + z + k = 32) :
    (BitVec.cast h (o ++ 0#z ++ x)) &&& (BitVec.allOnes 32 <<< k) = BitVec.setWidth 32 o <<< 28 := by
  apply BitVec.eq_of_getLsbD_eq; intro i hi
  simp only [BitVec.getLsbD_and, BitVec.getLsbD_cast, BitVec.getLsbD_append, BitVec.getLsbD_shiftLeft,
    BitVec.getLsbD_allOnes, BitVec.getLsbD_setWidth, BitVec.getLsbD_zero]
  by_cases h1 : i < k
  · simp [h1, show i < 28 by omega]
  · by_cases h2 : i < 28
    · simp [h1, h2, show i - k < z by omega]
    · simp [h1, h2, show ¬ i - k < z by omega, show i - k - z = i - 28 by omega, hi, show i - k < 32 by omega,
        show i - 28 < 32 by omega]

theorem nop : Statement .nop := fun _ => ⟨⟨opcodeRows[0], by decide, rfl, by decide, rfl⟩, by decide⟩

theorem put (len : BitVec 16) (payload : List Byte) : Statement (.put len payload) := by
  intro h
  refine ⟨⟨opcodeRows[1], by decide, rfl, ?_, rfl⟩, ?_⟩
  · exact beq_iff_eq.mpr (masked_row (z := 12) 1 len rfl)
  · have e : payloadLength (Instr.put len payload).word = len.toNat := by
      have ho : opcode (Instr.put len payload).word = 1 := opcode_row (z := 12) 1 len rfl
      have hx : (Instr.put len payload).word.extractLsb' 0 16 = len := operand_row (z := 12) 1 len rfl
      unfold payloadLength; rw [ho, hx]; rfl
    rw [e]; simpa [Instr.wellFormed, Instr.payloadBytes] using h

theorem sof : Statement .sof := fun _ => ⟨⟨opcodeRows[2], by decide, rfl, by decide, rfl⟩, by decide⟩

theorem fbDone : Statement .fbDone := fun _ => ⟨⟨opcodeRows[3], by decide, rfl, by decide, rfl⟩, by decide⟩

theorem configure (fmt : Fmt) (rate : Rate) : Statement (.configure fmt rate) := by
  intro _
  refine ⟨⟨opcodeRows[4], by decide, rfl, ?_, rfl⟩, ?_⟩ <;> cases fmt <;> cases rate <;> decide

theorem setMute (mute : Bool) : Statement (.setMute mute) := by
  intro _
  refine ⟨⟨opcodeRows[5], by decide, rfl, ?_, rfl⟩, ?_⟩ <;> cases mute <;> decide

theorem setAtten (step : BitVec 8) : Statement (.setAtten step) := fun _ =>
  ⟨⟨opcodeRows[6], by decide, rfl, beq_iff_eq.mpr (masked_row (z := 20) 6 step rfl), rfl⟩,
    (payloadLength_of_row (z := 20) 6 step rfl (by decide)).symm⟩

theorem pump (half : BitVec 1) : Statement (.pump half) := fun _ =>
  ⟨⟨opcodeRows[7], by decide, rfl, beq_iff_eq.mpr (masked_row (z := 27) 7 half rfl), rfl⟩,
    (payloadLength_of_row (z := 27) 7 half rfl (by decide)).symm⟩

theorem outDone : Statement .outDone := fun _ => ⟨⟨opcodeRows[8], by decide, rfl, by decide, rfl⟩, by decide⟩

theorem csrRead (addr : BitVec 8) : Statement (.csrRead addr) := fun _ =>
  ⟨⟨opcodeRows[9], by decide, rfl, beq_iff_eq.mpr (masked_row (z := 20) 9 addr rfl), rfl⟩,
    (payloadLength_of_row (z := 20) 9 addr rfl (by decide)).symm⟩

theorem setIe (mask : BitVec 9) : Statement (.setIe mask) := fun _ =>
  ⟨⟨opcodeRows[10], by decide, rfl, beq_iff_eq.mpr (masked_row (z := 19) 10 mask rfl), rfl⟩,
    (payloadLength_of_row (z := 19) 10 mask rfl (by decide)).symm⟩

theorem ack (mask : BitVec 8) : Statement (.ack mask) := fun _ =>
  ⟨⟨opcodeRows[11], by decide, rfl, beq_iff_eq.mpr (masked_row (z := 20) 11 mask rfl), rfl⟩,
    (payloadLength_of_row (z := 20) 11 mask rfl (by decide)).symm⟩

end Sys2Proof.Laws.EncodedOpcode
end

