-- ==== Sys2Proof/Laws/Ring.lean ====
section
/-! SUPPORT. The ring's occupancy under the invariant, its views, and what a state of the invariant keeps when only other
fields change. -/

namespace Sys2Proof.Machine

/-- The ring has at least one slot. -/
theorem rbSize_pos {s : State} (hi : s.Inv) : 0 < s.cfg.rbSize := by have := hi.head_lt; omega

/-- RBSIZE is at most `2^16` (00_scope.md R8). -/
theorem rbSize_le {s : State} (hi : s.Inv) : s.cfg.rbSize ≤ 65536 := by
  have : s.cfg.rbSize ≤ 2 ^ 16 := Nat.pow_le_pow_right (by omega) (legal_facts hi.legal).rb
  omega

theorem lagP_le_distance {s : State} (hi : s.Inv) : s.lagP ≤ modDist s.cfg.rbSize s.head s.tailPv := hi.r38.b_producer_view

/-- What the consumer does not see yet and what it sees make the exact count (40_ring_buffer.md R121). -/
theorem lagC_add_countC {s : State} (hi : s.Inv) : s.lagC + s.countC = s.count := by
  have h1 := hi.r38.b_consumer_view
  have := hi.head_lt; have := hi.tail_lt; have := hi.headCv_lt
  unfold State.lagC State.countC State.count
  rw [modDist_eq hi.head_lt hi.tail_lt, modDist_eq hi.headCv_lt hi.tail_lt] at *
  rw [modDist_eq hi.head_lt hi.headCv_lt]
  split at h1 <;> split at h1 <;> split <;> simp_all <;> omega

/-- What the producer does not see yet and what it sees make the exact space (40_ring_buffer.md R121). -/
theorem spaceP_add_lagP {s : State} (hi : s.Inv) : s.spaceP + s.lagP = s.space := by
  have h1 := hi.r38.b_producer_view
  have := hi.head_lt; have := hi.tail_lt; have := hi.tailPv_lt
  unfold State.lagP State.spaceP State.space State.count
  rw [modDist_eq hi.tail_lt hi.tailPv_lt, modDist_eq hi.head_lt hi.tailPv_lt] at *
  rw [modDist_eq hi.head_lt hi.tail_lt]
  split_ifs at * <;> omega

/-- A snapshot shows the producer `k` more bytes of space (20_memory.md R71). -/
theorem spaceP_refresh {s : State} (hi : s.Inv) {k : Nat} (hk : k ≤ s.lagP) : (refreshTailPv k s).spaceP = s.spaceP + k := by
  have h1 := lagP_le_distance hi
  have h2 := modDist_lt s.head s.tailPv (rbSize_pos hi)
  unfold State.spaceP
  simp only [refreshTailPv]
  rw [modDist_add_right hi.head_lt hi.tailPv_lt (by omega)]; omega

/-- A snapshot shows the consumer `k` more bytes (20_memory.md R71). -/
theorem countC_refresh {s : State} (hi : s.Inv) {k : Nat} (hk : k ≤ s.lagC) : (refreshHeadCv k s).countC = s.countC + k := by
  have h1 := lagC_add_countC hi
  have h2 := modDist_lt s.head s.tail (rbSize_pos hi)
  unfold State.countC State.count at *
  simp only [refreshHeadCv]
  apply modDist_add_left hi.headCv_lt hi.tail_lt; omega

/-- An index `i` slots ahead of another is at distance `i`. -/
theorem modDist_ahead {m a i : Nat} (ha : a < m) (hi : i < m) : modDist m ((a + i) % m) a = i := by
  have := modDist_add_left (m := m) (a := a) (b := a) (k := i) ha ha (by simpa using hi)
  simpa using this

/-- A slot below the space left, counted from `head`, is no held slot (40_ring_buffer.md R122). -/
theorem held_apart {m h t i j : Nat} (hh : h < m) (ht : t < m) (hi : i < modDist m h t) (hj : modDist m h t + j < m) :
    (h + j) % m ≠ (t + i) % m := by
  have := modDist_lt h t (m := m) (by omega)
  rw [add_mod_ring hh (by omega), add_mod_ring ht (by omega)]
  rw [modDist_eq hh ht] at *
  split_ifs at * <;> omega

/-- The invariant reads only these fields. -/
theorem inv_of_same_fields {s t : State} (h : s.Inv)
    (e1 : t.cfg = s.cfg) (e2 : t.head = s.head) (e3 : t.tail = s.tail) (e4 : t.tailPv = s.tailPv)
    (e5 : t.headCv = s.headCv) (e6 : t.pst = s.pst) (e7 : t.fmt = s.fmt)
    (e8 : t.filled = s.filled) (e9 : t.outEn = s.outEn) (e10 : t.atten = s.atten)
    (e11 : t.sofcnt = s.sofcnt) (e12 : t.rate = s.rate) (e13 : t.fbValue = s.fbValue)
    (e14 : t.fbReady = s.fbReady) (e15 : t.epFree = s.epFree)
    (e16 : t.mem = s.mem) (e17 : t.outBuf = s.outBuf) (e18 : t.bl = s.bl) (e19 : t.nse = s.nse) : t.Inv := by
  obtain ⟨a1, ⟨b1, b2, b3, b4, b5, b6, b7⟩, a3, a4, a5, a6, a7, a8, a9, a10, a11, a12, a13, a14, a15, a16, a17, a18, a19, a20⟩ := h
  refine ⟨?_, ⟨?_, ?_, ?_, ?_, ?_, ?_, ?_⟩, ?_, ?_, ?_, ?_, ?_, ?_, ?_, ?_, ?_, ?_, ?_, ?_, ?_, ?_, ?_, ?_, ?_, ?_⟩ <;>
    simp only [State.count, e1, e2, e3, e4, e5, e6, e7, e8, e9, e10, e11, e12, e13, e14, e15, e16, e17, e18, e19] <;> assumption

end Sys2Proof.Machine
end

