-- ==== Sys2Proof/Tests/Slice0.lean ====
section
/-! SUPPORT. The model's own tests: the well-formedness smoke test, the decoding of words written out from 30_encoding.md
R92, single steps with the values of spec/'s examples and 95_test_vectors.md, and for every statement with hypotheses the
named theorem `witness_<statement>` that shows values meeting them. -/

namespace Sys2Proof.Tests

open Sys2Proof.Machine

/-! ## Well-formedness: a PUT without exactly its `len` bytes is refused (30_encoding.md R90) -/

theorem test_wellFormed_put : (Instr.put 2 [0x12, 0x34]).wellFormed = true := by decide
theorem test_illFormed_put_short : (Instr.put 2 [0x12]).wellFormed = false := by decide
theorem test_illFormed_put_long : (Instr.put 0 [0x12]).wellFormed = false := by decide

/-! ## Decoding: one word per command, bit by bit from the patterns of 30_encoding.md R92 -/

theorem test_decode_nop : decode .consumer 0b0000_0000_0000_0000_0000_0000_0000_0000#32 [] = .ok .nop := by decide
theorem test_decode_put :
    decode .producer 0b0001_0000_0000_0000_0000_0000_0000_0011#32 [7, 8, 9] = .ok (.put 3 [7, 8, 9]) := by decide
theorem test_decode_sof : decode .producer 0b0010_0000_0000_0000_0000_0000_0000_0000#32 [] = .ok .sof := by decide
theorem test_decode_fbDone : decode .producer 0b0011_0000_0000_0000_0000_0000_0000_0000#32 [] = .ok .fbDone := by decide
theorem test_decode_configure :
    decode .control 0b0100_0000_0000_0000_0000_0000_0000_1010#32 [] = .ok (.configure .s24 .double) := by decide
theorem test_decode_setMute :
    decode .control 0b0101_0000_0000_0000_0000_0000_0000_0001#32 [] = .ok (.setMute true) := by decide
theorem test_decode_setAtten :
    decode .control 0b0110_0000_0000_0000_0000_0000_1010_0101#32 [] = .ok (.setAtten 0xA5) := by decide
theorem test_decode_pump : decode .consumer 0b0111_0000_0000_0000_0000_0000_0000_0001#32 [] = .ok (.pump 1) := by decide
theorem test_decode_outDone :
    decode .consumer 0b1000_0000_0000_0000_0000_0000_0000_0000#32 [] = .ok .outDone := by decide
theorem test_decode_csrRead :
    decode .control 0b1001_0000_0000_0000_0000_0000_0001_0100#32 [] = .ok (.csrRead 0x14) := by decide
theorem test_decode_setIe :
    decode .control 0b1010_0000_0000_0000_0000_0001_1000_0001#32 [] = .ok (.setIe 0x181) := by decide
theorem test_decode_ack : decode .control 0b1011_0000_0000_0000_0000_0000_1000_0010#32 [] = .ok (.ack 0x82) := by decide

/-- R91: a reserved bit of each kind of row is refused, the lowest one above the operand and the highest. -/
theorem test_reserved_bits_refused :
    decode .control 0x40000010#32 [] = .error .reservedBits ∧ decode .control 0x50000002#32 [] = .error .reservedBits ∧
    decode .control 0x60000100#32 [] = .error .reservedBits ∧ decode .control 0xA0000200#32 [] = .error .reservedBits ∧
    decode .consumer 0x78000000#32 [] = .error .reservedBits ∧ decode .producer 0x10010000#32 [] = .error .reservedBits ∧
    decode .producer 0x00000001#32 [] = .error .reservedBits := by decide

/-- R97: codes 5 to 7 are reserved, 4 is F32; `rate` may be 1 with NONE. -/
theorem test_format_codes :
    decode .control 0x40000004#32 [] = .ok (.configure .f32 .normal) ∧
    decode .control 0x40000008#32 [] = .ok (.configure .none .double) ∧
    decode .control 0x40000005#32 [] = .error .reservedFormat ∧
    decode .control 0x40000007#32 [] = .error .reservedFormat := by decide

/-! ## States of a stream -/

/-- A stream S16, NORMAL under the reference profile that holds the frame `(0x4000, -0x4000)` of R252's example, both views
exact. -/
def stream (pst : PumpState) (filled : BitVec 2) (outEn : Bool) : State :=
  { State.reset with
    pst := pst, fmt := .s16, filled := filled, outEn := outEn
    mem := [(0, 0x00), (1, 0x40), (2, 0x00), (3, 0xC0)], head := 4, headCv := 4 }

/-- The same with nothing held. -/
def dry (pst : PumpState) (outEn : Bool) : State := { State.reset with pst := pst, fmt := .s16, outEn := outEn }

/-- A stream in FILL whose views lag both pointers by four bytes: four bytes put and taken, four more put. -/
def lagging : State :=
  { State.reset with
    pst := .fill, fmt := .s16
    mem := [(0, 1), (1, 2), (2, 3), (3, 4), (4, 5), (5, 6), (6, 7), (7, 8)], head := 8, tail := 4, headCv := 4 }

theorem inv_reset : State.reset.Inv := by
  constructor
  case r38 => constructor <;> decide
  all_goals decide
theorem inv_fill : (stream .fill 0 false).Inv := by
  constructor
  case r38 => constructor <;> decide
  all_goals decide
theorem inv_fill_half : (stream .fill 2 false).Inv := by
  constructor
  case r38 => constructor <;> decide
  all_goals decide
theorem inv_running : (stream .running 0 true).Inv := by
  constructor
  case r38 => constructor <;> decide
  all_goals decide
theorem inv_drain : (stream .drain 0 true).Inv := by
  constructor
  case r38 => constructor <;> decide
  all_goals decide
theorem inv_dry_running : (dry .running true).Inv := by
  constructor
  case r38 => constructor <;> decide
  all_goals decide
theorem inv_dry_fill : (dry .fill false).Inv := by
  constructor
  case r38 => constructor <;> decide
  all_goals decide
theorem inv_lagging : lagging.Inv := by
  constructor
  case r38 => constructor <;> decide
  all_goals decide

/-! ## Single steps, with the values of spec/ -/

/-- 40_ring_buffer.md R124's example: head 4, delta 59, response 0x8000003B. -/
theorem test_put_example :
    ((putWith 0 4 [0x00, 0x40, 0x00, 0xC0] (dry .fill false)).head = 4 ∧
     (putWith 0 4 [0x00, 0x40, 0x00, 0xC0] (dry .fill false)).delta = 59) ∧
    (putWith 0 4 [0x00, 0x40, 0x00, 0xC0] (dry .fill false)).outputs = [.response .producer 0x8000003B] := by decide

/-- R125: seven bytes of S16 keep one frame and raise MALFORMED; a byte beyond the space is rejected whole. -/
theorem test_put_truncates_and_rejects :
    (putWith 0 7 [1, 2, 3, 4, 5, 6, 7] (dry .fill false)).head = 4 ∧
    (putWith 0 7 [1, 2, 3, 4, 5, 6, 7] (dry .fill false)).pend = 0x04 ∧
    (putWith 0 64 (List.replicate 64 9) State.reset).head = 0 ∧
    (putWith 0 64 (List.replicate 64 9) State.reset).outputs = [.response .producer 0x0000003F] := by decide

/-- 44_feedback.md R224's example: the 8th SOF emits FB_SEND(0x00, 0x00, 0x0C). -/
theorem test_sof_boundary :
    (sofTick { dry .fill false with sofcnt := 7 }).outputs = [.fbSend 0x00 0x00 0x0C] ∧
    (sofTick { dry .fill false with sofcnt := 7 }).epFree = false := by decide

/-- 44_feedback.md R222's table: RUNNING, NORMAL, delta 118 gives 751104, sent or waiting. -/
theorem test_sof_value :
    (sofTick { dry .running true with sofcnt := 7, delta := 118, epFree := false }).fbValue = 751104 ∧
    (sofTick { dry .running true with sofcnt := 7, delta := 118, epFree := false }).delta = 0 := by decide

/-- R232: FB_DONE sends a waiting value at once. -/
theorem test_fbDone_sends :
    (trySend { State.reset with fbReady := true, fbValue := 0x0B7600, epFree := true }).outputs
      = [.fbSend 0x00 0x76 0x0B] := by decide

/-- 45_pump_control.md R252's example: the codes of half 0, and the backlog it leaves. -/
theorem test_pump_codes :
    (List.range 8).map ((pumpWith 0 0 (stream .fill 0 false)).outElem 0) = [136, 120, 152, 104, 168, 88, 184, 72] := by
  decide
theorem test_pump_state :
    (pumpWith 0 0 (stream .fill 0 false)).filled = 1 ∧ (pumpWith 0 0 (stream .fill 0 false)).tail = 4 ∧
    (pumpWith 0 0 (stream .fill 0 false)).bl = [[0x40000000], [0xC0000000]] := by decide

/-- R251, R253: the second half marked enters RUNNING with the output on. -/
theorem test_pump_enters_running :
    (pumpWith 0 0 (stream .fill 2 false)).pst = .running ∧ (pumpWith 0 0 (stream .fill 2 false)).outEn = true ∧
    (pumpWith 0 0 (stream .fill 2 false)).pend = 0x80 := by decide

/-- 43_noise_shaper.md, the examples' table: the rows for 2^23 with a zero state and for 2^31-1. -/
theorem test_shape_rows :
    shape Config.reference [0, 0, 0] 8388608 = { code := 129, row := [8388608, 0, 0], sats := 0 } ∧
    shape Config.reference [0, 0, 0] 2147483647 = { code := 255, row := [BitVec.ofInt 32 (-16777215), 0, 0], sats := 1 } := by
  decide

/-- 41_reframer.md R160's examples. -/
theorem test_gain : gain 1073741824 16384 = 536870912 ∧ gain (-1) 16384 = -1 ∧ gain (-3) 16384 = -2 ∧ gain 3 16384 = 1 := by
  decide

/-- 45_pump_control.md R271: a step above ATTEN_MAX = 2 is clamped. -/
theorem test_setAtten_clamps : ∃ t, exec (.setAtten 9) State.reset = .next t ∧ t.atten = 2 := ⟨_, rfl, by decide⟩

/-- R260: CONFIGURE S16 in CLOSED enters FILL with STATECHG; R263: in RUNNING it raises CFGREJ. -/
theorem test_configure :
    (configureStream .s16 .normal State.reset).pst = .fill ∧ (configureStream .s16 .normal State.reset).pend = 0x80 ∧
    (configureStream .s24 .double (stream .running 0 true)).fmt = .s16 ∧
    (configureStream .s24 .double (stream .running 0 true)).pend = 0x40 := by decide

/-- 46_csr_ops.md R291's example and the values of R294. -/
theorem test_csrRead :
    State.reset.csrValue? 0x04 = some 0x00000040 ∧ State.reset.csrValue? 0x01 = some 0x0004D066 ∧
    State.reset.csrValue? 0x02 = some 0x00020204 ∧ State.reset.csrValue? 0x03 = some 0x00020004 ∧
    State.reset.csrValue? 0x0E = none := by decide

/-- 46_csr_ops.md R293's and R292's examples. -/
theorem test_ack_and_ie :
    (clearPending 0x82 { State.reset with pend := 0b10100010 }).pend = 0b00100000 ∧
    State.irq { State.reset with pend := 0x02, ie := 0x002 } = true := by decide

/-- 30_encoding.md R94: SOF on the control port raises ILLEGAL and nothing else. -/
theorem test_illegal_step :
    ∃ t, step (State.reset.issue { port := .control, word := 0x20000000, payload := [] }) = .next t ∧
      t.pend = 0x20 ∧ t.sofcnt = 0 ∧ t.outputs = [] := ⟨_, rfl, by decide, by decide, by decide⟩

/-- A table word issued with `withFetchWord` runs as the very next transaction: OUT_DONE's and SET_IE's. -/
theorem test_withFetchWord :
    decodeTableWord 32 0x80000000 = some .outDone ∧ decodeTableWord 32 0x40000006 = none ∧
    ∃ t, step (State.reset.withFetchWord 32 0xA0000005) = .next t ∧ t.ie = 5 := ⟨by decide, by decide, _, rfl, by decide⟩

/-! ## Witnesses: values that meet the hypotheses of the statements -/

theorem witness_DecodeReadsBackEveryCommand :
    ((Instr.put 2 [1, 2]).wellFormed = true ∧ .producer ∈ (Instr.put 2 [1, 2]).ports) ∧
    (Instr.nop.wellFormed = true ∧ .consumer ∈ Instr.nop.ports) ∧
    ((Instr.setIe 0x1FF).wellFormed = true ∧ .control ∈ (Instr.setIe 0x1FF).ports) := by decide

theorem witness_EncodeReadsBackEveryLegalWord :
    decode .producer 0x10000002 [1, 2] = .ok (.put 2 [1, 2]) ∧ decode .control 0x4000000C [] = .ok (.configure .f32 .double) := by
  decide

theorem witness_DecoderAcceptsTheOpcodeTable :
    let put : Txn := { port := .producer, word := 0x10000001, payload := [9] }
    let reserved : Txn := { port := .control, word := 0xC0000000, payload := [] }
    put.framed ∧ put.legalByTable ∧ decode put.port put.word put.payload = .ok (.put 1 [9]) ∧
    reserved.framed ∧ ¬ reserved.legalByTable := by
  unfold Txn.legalByTable; decide

/-- Every clause of R94 has a transaction, at the boundary: `fmt` 4 and 5, opcode 0xB and 0xC, a reserved bit, a wrong
port, and the two opcodes that respond. -/
theorem witness_IllegalCommandOnlyRaisesIllegal :
    State.reset.cfg.legal = true ∧
    (let t : Txn := { port := .control, word := 0x40000004, payload := [] }; t.framed ∧ t.legalByTable) ∧
    (let t : Txn := { port := .control, word := 0xB00000FF, payload := [] }; t.framed ∧ t.legalByTable) ∧
    (let t : Txn := { port := .control, word := 0x40000005, payload := [] }; t.framed ∧ ¬ t.legalByTable) ∧
    (let t : Txn := { port := .control, word := 0xC0000000, payload := [] }; t.framed ∧ ¬ t.legalByTable) ∧
    (let t : Txn := { port := .producer, word := 0x10010001, payload := [5] }; t.framed ∧ ¬ t.legalByTable) ∧
    (let t : Txn := { port := .consumer, word := 0x90000004, payload := [] }; t.framed ∧ ¬ t.legalByTable) ∧
    (State.reset.issue { port := .control, word := 0xC0000000, payload := [] }).input
      = [.command { port := .control, word := 0xC0000000, payload := [] }] := by
  unfold Txn.legalByTable; decide

theorem witness_AssembledLinesDecode :
    (AsmLine.put [1, 2]).command? = some (.put 2 [1, 2]) ∧ Port.producer ∈ (Instr.put 2 [1, 2]).ports := by decide

theorem witness_StepRunsTheDecodedCommand :
    State.reset.cfg.legal = true ∧
    (State.reset.withFetchWord 32 0x50000001).input = [.command { port := .control, word := 0x50000001, payload := [] }] ∧
    decode .control 0x50000001 [] = .ok (.setMute true) := by decide

theorem witness_StepWithoutACommand :
    { Config.reference with nsOrder := 2 }.legal = false ∧ { Config.reference with rbLog2 := 17 }.legal = false ∧
    State.reset.cfg.legal = true ∧ State.reset.input = [] ∧
    ¬ Txn.framed { port := .producer, word := 0x10000002, payload := [1] } ∧
    ¬ Txn.framed { port := .producer, word := 0x20000000, payload := [1] } := by decide

/-- Three framed inputs: a PUT with its payload, an illegal word, a power-on reset. -/
theorem witness_FramedInputsNeverStop :
    State.reset.cfg.legal = true ∧
    inputsFramed [.command { port := .producer, word := 0x10000002, payload := [1, 2] },
      .command { port := .consumer, word := 0xF0000000, payload := [] }, .powerOnReset] := by
  refine ⟨by decide, fun t h => ?_⟩
  simp only [List.mem_cons, Input.command.injEq, reduceCtorEq, List.not_mem_nil, or_false] at h
  rcases h with rfl | rfl <;> decide

theorem witness_PowerOnResetState :
    Config.reference.legal = true ∧
    ({ stream .running 0 true with input := [.powerOnReset, .powerOnReset] } : State).cfg = Config.reference ∧
    { Config.reference with nch := 3, pwmBits := 16, attenMax := 1, gain := [32768, 0] }.legal = true := by decide

theorem witness_ResetMeetsTheInvariant : Config.reference.legal = true := by decide

theorem witness_EveryStepKeepsTheInvariant :
    (stream .fill 2 false).Inv ∧ ∃ t, step ((stream .fill 2 false).withFetchWord 32 0x70000000) = .next t ∧ t.pst = .running :=
  ⟨inv_fill_half, _, rfl, by decide⟩

theorem witness_ReachableStatesSatisfyR38 :
    Config.reference.legal = true ∧ ∃ t,
      Host.Core.run Sys2Proof.core 2 { State.resetOf Config.reference with
        input := [.command { port := .control, word := 0x40000001, payload := [] },
          .command { port := .producer, word := 0x10000004, payload := [1, 2, 3, 4] }] } = .next t ∧ t.head = 4 :=
  ⟨by decide, _, rfl, by decide⟩

/-- The statements about `exec i s = .next t`: one command of each shape answers a next state. -/
theorem witness_exec_answers :
    (∃ t, exec .nop State.reset = .next t) ∧ (∃ t, exec (.put 1 [7]) State.reset = .next t ∧ t.mem ≠ State.reset.mem) ∧
    (∃ t, exec (.pump 0) (stream .fill 0 false) = .next t ∧ t.outBuf ≠ []) ∧
    (∃ t, exec (.setMute true) State.reset = .next t) ∧ (∃ t, exec .sof State.reset = .next t) ∧
    (∃ t, exec (.csrRead 0) State.reset = .next t) ∧ (∃ t, exec (.ack 1) State.reset = .next t) :=
  ⟨⟨_, rfl⟩, ⟨_, rfl, by decide⟩, ⟨_, rfl, by decide⟩, ⟨_, rfl⟩, ⟨_, rfl⟩, ⟨_, rfl⟩, ⟨_, rfl⟩⟩

theorem witness_NoCommandWritesAParameter : ∃ t, exec (.setAtten 1) State.reset = .next t := ⟨_, rfl⟩

/-- A CONFIGURE outside a set-up (RUNNING), a producer's, a consumer's and a control command. -/
theorem witness_EachPortWritesItsOwnState :
    (∃ t, exec (.configure .s24 .normal) (stream .running 0 true) = .next t) ∧ (∃ t, exec .sof State.reset = .next t) ∧
    (∃ t, exec (.pump 1) (stream .drain 0 true) = .next t) ∧ (∃ t, exec (.setIe 1) State.reset = .next t) ∧
    .producer ∉ (Instr.configure .s24 .normal).ports ∧ .consumer ∉ (Instr.configure .s24 .normal).ports ∧
    .control ∉ Instr.sof.ports ∧ Instr.sof.ports = [.producer] ∧ (stream .running 0 true).pst = .running :=
  ⟨⟨_, rfl⟩, ⟨_, rfl⟩, ⟨_, rfl⟩, ⟨_, rfl⟩, by decide⟩

theorem witness_OutputsOfEachCommand :
    (∃ t, exec (.put 0 []) State.reset = .next t) ∧ (∃ t, exec (.csrRead 5) State.reset = .next t) ∧
    (∃ t, exec .fbDone State.reset = .next t) ∧ ∃ t, exec .outDone State.reset = .next t :=
  ⟨⟨_, rfl⟩, ⟨_, rfl⟩, ⟨_, rfl⟩, ⟨_, rfl⟩⟩

theorem witness_OtherCommandsLeaveMemory :
    (∀ len b, Instr.configure .s16 .normal ≠ .put len b) ∧ (∀ h, Instr.configure .s16 .normal ≠ .pump h) ∧
    ∃ t, exec (.configure .s16 .normal) (stream .fill 0 false) = .next t :=
  ⟨by simp, by simp, _, rfl⟩

theorem witness_CountersNeverFall :
    (∃ t, exec (.put 1 [7]) (dry .fill false) = .next t ∧ t.cntMalformed = 1) ∧ ∀ m, Instr.put 1 [7] ≠ .ack m :=
  ⟨⟨_, rfl, by decide⟩, by simp⟩

/-- The whole space, and nothing: the two ends of what fits an empty ring of 64 slots. -/
theorem witness_PutStoresAFittingPacket :
    State.reset.Inv ∧ (List.replicate 63 (7 : Byte)).length = (63 : BitVec 16).toNat ∧
    State.reset.putBytes 63 ≤ State.reset.spaceP ∧ ([] : List Byte).length = (0 : BitVec 16).toNat ∧
    State.reset.putBytes 0 ≤ State.reset.spaceP :=
  ⟨inv_reset, by decide⟩

/-- Both clauses at the boundary, with no lag: 63 bytes fit, 64 do not; and with a lagging view, one frame fits whatever
the draw and 64 bytes do not. -/
theorem witness_PutIsAllOrNothing :
    State.reset.Inv ∧ State.reset.lagP = 0 ∧ State.reset.putBytes 63 ≤ State.reset.spaceP + 0 ∧
    State.reset.spaceP + 0 < State.reset.putBytes 64 ∧ (List.replicate 64 (7 : Byte)).length = (64 : BitVec 16).toNat ∧
    lagging.Inv ∧ lagging.lagP = 4 ∧ lagging.putBytes 4 ≤ lagging.spaceP + 0 ∧ lagging.spaceP + 4 < lagging.putBytes 64 ∧
    lagging.putIsMalformed 65 ∧ ¬ lagging.putIsMalformed 64 :=
  ⟨inv_reset, by decide, by decide, by decide, by decide, inv_lagging, by decide⟩

/-- An accepted PUT adds its bytes to the count, a rejected one none. -/
theorem witness_PutNeverOverwritesHeldBytes :
    (stream .fill 0 false).Inv ∧ (stream .fill 0 false).count = 4 ∧ ([1, 2, 3, 4] : List Byte).length = (4 : BitVec 16).toNat ∧
    (∃ t, exec (.put 4 [1, 2, 3, 4]) (stream .fill 0 false) = .next t ∧ t.count = 8) ∧
    ∃ t, exec (.put 60 (List.replicate 60 1)) (stream .fill 0 false) = .next t ∧ t.count = 4 :=
  ⟨inv_fill, by decide, by decide, ⟨_, rfl, by decide⟩, _, rfl, by decide⟩

/-- An accepted and a rejected PUT, a PUMP that takes the chunk and one that finds none, a set-up, a refused CONFIGURE and
a command that leaves the ring. -/
theorem witness_RingIsAByteQueue :
    (stream .running 0 true).Inv ∧ (dry .running true).Inv ∧ (stream .fill 0 false).Inv ∧
    (∃ t, exec (.put 4 [1, 2, 3, 4]) (stream .running 0 true) = .next t ∧ t.head = 8) ∧
    (∃ t, exec (.put 60 (List.replicate 60 1)) (stream .running 0 true) = .next t ∧ t.head = 4) ∧
    (∃ t, exec (.pump 0) (stream .running 0 true) = .next t ∧ t.tail = 4) ∧
    (∃ t, exec (.pump 0) (dry .running true) = .next t ∧ t.tail = 0 ∧ t.cntUnderrun = 1) ∧
    (∃ t, exec (.configure .s16 .normal) (stream .fill 0 false) = .next t ∧ t.head = 0) ∧
    (∃ t, exec (.configure .s16 .normal) (stream .running 0 true) = .next t ∧ t.head = 4) ∧
    ∃ t, exec .outDone (stream .drain 0 true) = .next t :=
  ⟨inv_running, inv_dry_running, inv_fill, ⟨_, rfl, by decide⟩, ⟨_, rfl, by decide⟩, ⟨_, rfl, by decide⟩,
    ⟨_, rfl, by decide, by decide⟩, ⟨_, rfl, by decide⟩, ⟨_, rfl, by decide⟩, _, rfl⟩

/-- The three classes of a pattern: NaN, infinity, the largest finite exponent and a subnormal. -/
theorem witness_FloatSamplesTruncateTowardZero :
    ((255 : BitVec 8) = 255 ∧ (1 : BitVec 23) ≠ 0) ∧ ((255 : BitVec 8) = 255 ∧ (0 : BitVec 23) = 0) ∧
    (254 : BitVec 8) ≠ 255 ∧ (0 : BitVec 8) ≠ 255 := by decide

theorem witness_ReframeDecodesWholeFrames :
    Fmt.s24 ≠ .none ∧ (∀ x ∈ [List.replicate 6 (1 : Byte)], x.length = Fmt.s24.frameBytes) ∧
    (List.replicate 5 (2 : Byte)).length < Fmt.s24.frameBytes := by decide

theorem witness_GainScalesExactly :
    ((-2 ^ 31 : Int) ≤ -2 ^ 31 ∧ (-2 ^ 31 : Int) ≤ 2 ^ 31 - 1 ∧ 32768 ≤ 32768) ∧
    ((-2 ^ 31 : Int) ≤ 2 ^ 31 - 1 ∧ (0 : Nat) ≤ 32768) := by decide

/-- Three channels too. -/
def threeChannels : State :=
  { State.resetOf { Config.reference with nch := 3 } with
    pst := .fill, fmt := .s16, mem := [(0, 0xFF), (1, 0xFF), (2, 0x00), (3, 0x00)], head := 4, headCv := 4 }

theorem inv_threeChannels : threeChannels.Inv := by
  constructor
  case r38 => constructor <;> decide
  all_goals decide

/-- 41_reframer.md R165: left -65536 and right 0 give the centre -32768. R160: muted, and attenuated by one step (gain
16384), the frame of R252's example. -/
theorem witness_PumpFramesAreInRange :
    threeChannels.Inv ∧ threeChannels.pst ≠ .closed ∧ threeChannels.cfg.nch = 3 ∧
    threeChannels.pumpFrames = [[-65536, 0, -32768]] ∧ (stream .drain 0 true).Inv ∧ (stream .drain 0 true).pst ≠ .closed ∧
    (stream .drain 0 true).mute = false ∧ (stream .drain 0 true).cfg.nch = 2 ∧
    ({ stream .drain 0 true with mute := true } : State).pumpFrames = [[0, 0]] ∧
    ({ stream .drain 0 true with atten := 1 } : State).pumpFrames = [[536870912, -536870912]] :=
  ⟨inv_threeChannels, by decide, by decide, by decide, inv_drain, by decide⟩

/-- Muted, and attenuated to the last step, each with a zero filter and shaper state. -/
theorem witness_MuteIsSilence :
    ({ stream .running 0 true with mute := true }).Inv ∧ ({ stream .running 0 true with atten := 2 }).Inv ∧
    ({ stream .running 0 true with atten := 2 }).atten = Config.reference.attenMax ∧
    (stream .running 0 true).bl = zeroRows 2 1 ∧ (stream .running 0 true).nse = zeroRows 2 3 ∧
    (stream .running 0 true).pumpFrames = [[1073741824, -1073741824]] := by
  refine ⟨?_, ?_, by decide⟩ <;>
  · constructor
    case r38 => constructor <;> decide
    all_goals decide

theorem witness_UpsamplerIsContinuous :
    1 < Config.reference.nch ∧ (∀ f ∈ [[(5 : Int), -2 ^ 31], [2 ^ 31 - 1, 0]], ∀ v ∈ f, -2 ^ 31 ≤ v ∧ v ≤ 2 ^ 31 - 1) := by
  decide

/-- The reference table sums to 2^15 in every phase, here with the window full of 2^30 (42_upsampler.md's examples). -/
theorem witness_UpsamplerPassesDC :
    (∀ p < 4, ((List.range 2).map fun j => Config.reference.normal.coef.getD (j * 4 + p) 0).sum = 2 ^ 15) ∧
    ∀ j < 2, window [[0x40000000]] [[1073741824]] 0 0 j = 1073741824 := by decide

theorem witness_UnitTapSumsNeverSaturate :
    { Config.reference with normal := { Config.reference.normal with coef := [-32768, 0, 0, 0, 0, 0, 0, 0] } }.legal = true ∧
    unitTapSums { Config.reference with normal := { Config.reference.normal with coef := [-32768, 0, 0, 0, 0, 0, 0, 0] } }
      .normal ∧
    ∀ f ∈ [[(-2 ^ 31 : Int), 0]], ∀ v ∈ f, -2 ^ 31 ≤ v ∧ v ≤ 2 ^ 31 - 1 := by decide

theorem witness_PositiveUnitTapSumsNeverSaturate :
    Config.reference.legal = true ∧ unitTapSums Config.reference .normal ∧ unitTapSums Config.reference .double ∧
    (∀ k ∈ (Config.reference.at .normal).coef, 0 ≤ k) ∧
    ∀ f ∈ [[(-2 ^ 31 : Int), 2 ^ 31 - 1]], ∀ v ∈ f, -2 ^ 31 ≤ v ∧ v ≤ 2 ^ 31 - 1 := by decide

theorem witness_ShapeQuantisesToTheNearestLevel :
    Config.reference.legal = true ∧
    quantLevel Config.reference 8388608 = quantRaw Config.reference 8388608 ∧
    quantLevel Config.reference 2147483647 ≠ quantRaw Config.reference 2147483647 ∧ 1 + 1 < Config.reference.nsOrder := by
  decide

theorem witness_FeedbackValueFollowsDelta :
    Config.reference.legal = true ∧ 1 ≤ (Config.reference.at .normal).fbShift ∧
    { Config.reference with normal := { Config.reference.normal with fbShift := -3 } }.legal = true ∧ 0 ≤ 118 := by decide

/-- Away from a boundary (6 of 8), and at it (7 of 8) with each pair of send flags. -/
theorem witness_SofCountsAndReports :
    ({ dry .fill false with sofcnt := 6 } : State).Inv ∧ 6 + 1 ≠ 2 ^ Config.reference.sofShift ∧
    ({ dry .fill false with sofcnt := 7, fbReady := true, epFree := false } : State).Inv ∧
    ({ dry .fill false with sofcnt := 7, epFree := false } : State).Inv ∧
    ({ dry .fill false with sofcnt := 7 } : State).Inv ∧ 7 + 1 = 2 ^ Config.reference.sofShift := by
  refine ⟨?_, by decide, ?_, ?_, ?_, by decide⟩ <;>
  · constructor
    case r38 => constructor <;> decide
    all_goals decide

theorem witness_ReportEveryPeriod :
    (dry .fill false).Inv ∧ (dry .fill false).sofcnt = 0 ∧ 7 < 2 ^ (dry .fill false).cfg.sofShift :=
  ⟨inv_dry_fill, by decide⟩

theorem witness_FbDoneFreesTheEndpoint :
    State.reset.fbReady = false ∧ ({ State.reset with fbReady := true } : State).fbReady = true := by decide

/-- Exactly one chunk in view, in FILL with the other half marked and unmarked, and outside FILL. -/
theorem witness_PumpRunsThePipeline :
    (stream .fill 2 false).Inv ∧ (stream .fill 2 false).chunkBytes = (stream .fill 2 false).countC ∧
    (stream .fill 2 false).filled ||| (1#2 <<< (0 : BitVec 1).toNat) = 3 ∧
    (stream .fill 0 false).Inv ∧ (stream .fill 0 false).filled ||| (1#2 <<< (0 : BitVec 1).toNat) ≠ 3 ∧
    (stream .running 0 true).Inv ∧ (stream .running 0 true).pst ≠ .closed ∧ (stream .running 0 true).pst ≠ .fill :=
  ⟨inv_fill_half, by decide, by decide, inv_fill, by decide, inv_running, by decide⟩

/-- A whole chunk in view, none at all in RUNNING and in FILL, and a view that may or may not come to show one. -/
theorem witness_PumpRunsOrLeavesEverything :
    (stream .running 0 true).Inv ∧ (stream .running 0 true).chunkBytes ≤ (stream .running 0 true).countC + 0 ∧
    (dry .running true).Inv ∧ (dry .running true).countC + 0 < (dry .running true).chunkBytes ∧
    (dry .fill false).Inv ∧ (dry .fill false).countC + 0 < (dry .fill false).chunkBytes ∧
    lagging.Inv ∧ lagging.lagC = 4 ∧ lagging.countC + 3 < lagging.chunkBytes ∧ lagging.chunkBytes ≤ lagging.countC + 4 :=
  ⟨inv_running, by decide, inv_dry_running, by decide, inv_dry_fill, by decide, inv_lagging, by decide⟩

theorem witness_PumpInClosedDoesNothing : State.reset.pst = .closed := by decide

/-- A chunk in view before the PUMP, taken for half 1 and half 0; and at the level of the draw, a view that showed nothing
and whose draw of 4 brings the chunk into it. -/
theorem witness_PumpWritesDutyCodes :
    (stream .running 0 true).Inv ∧ (stream .running 0 true).pst ≠ .closed ∧
    (∃ t, exec (.pump 1) (stream .running 0 true) = .next t ∧
      ((stream .running 0 true).chunkBytes : Int) ≤ ((t.headCv : Int) - (stream .running 0 true).tail) % 64 ∧
      t.outElem 1 7 = 72) ∧
    lagging.Inv ∧ lagging.countC < lagging.chunkBytes ∧
    (lagging.chunkBytes : Int) ≤ (((pumpWith 4 0 lagging).headCv : Int) - lagging.tail) % 64 ∧
    (pumpWith 4 0 lagging).tail = 8 ∧ (pumpWith 4 0 lagging).outElem 0 7 ≠ 0 :=
  ⟨inv_running, by decide, ⟨_, rfl, by decide, by decide⟩, inv_lagging, by decide⟩

/-- Two and three channels, each with a whole chunk in the view the PUMP leaves; the stored byte order and the backlog of
45_pump_control.md R252's example. -/
theorem witness_PumpStagesCompose :
    (stream .fill 0 false).Inv ∧ (stream .fill 0 false).pst ≠ .closed ∧
    (∃ t, exec (.pump 0) (stream .fill 0 false) = .next t ∧
      ((stream .fill 0 false).chunkBytes : Int) ≤ ((t.headCv : Int) - (stream .fill 0 false).tail) % 64 ∧
      t.outRead 0 = 136 ∧ t.outRead 1 = 0 ∧ t.bl = [[0x40000000], [0xC0000000]]) ∧
    threeChannels.Inv ∧ threeChannels.pst ≠ .closed ∧
    ∃ t, exec (.pump 1) threeChannels = .next t ∧
      (threeChannels.chunkBytes : Int) ≤ ((t.headCv : Int) - threeChannels.tail) % 64 :=
  ⟨inv_fill, by decide, ⟨_, rfl, by decide⟩, inv_threeChannels, by decide, _, rfl, by decide⟩

/-- A word with opcode 0 and one other bit, the lowest and the highest. -/
theorem witness_NopDoesNothing :
    (0x00000001 : Word) ≠ 0 ∧ (0x00000001 : Word).toNat / 2 ^ 28 = 0 ∧ (0x08000000 : Word) ≠ 0 ∧
    (0x08000000 : Word).toNat / 2 ^ 28 = 0 := by decide

/-- Both values of the mute bit: muted, the frame of the stream is silent; unmuted, the gain is unity. -/
theorem witness_SetMuteWritesMute :
    (∃ t, exec (.setMute true) (stream .running 0 true) = .next t ∧ t.frames (t.ringBytes 4) = [[0, 0]]) ∧
    ∃ t, exec (.setMute false) (stream .running 0 true) = .next t ∧ t.gainStep = 32768 :=
  ⟨⟨_, rfl, by decide⟩, _, rfl, by decide⟩

/-- The last step and one above it, under a legal configuration; a step below it keeps its gain. -/
theorem witness_SetAttenClampsTheStep :
    State.reset.cfg.legal = true ∧ State.reset.cfg.attenMax ≤ (2 : BitVec 8).toNat ∧
    State.reset.cfg.attenMax ≤ (3 : BitVec 8).toNat ∧
    ∃ t, exec (.setAtten 1) State.reset = .next t ∧ t.gainStep = 16384 := ⟨by decide, by decide, by decide, _, rfl, by decide⟩

theorem witness_OutDoneClosesADrainingStream : (stream .drain 0 true).pst = .drain ∧ State.reset.pst ≠ .drain := by decide

theorem witness_ConfigureSetsUpAStream :
    Fmt.s16 ≠ .none ∧ State.reset.pst = .closed ∧ (stream .fill 0 false).pst = .fill := by decide

theorem witness_ConfigureIsRefusedWhilePlaying :
    Fmt.f32 ≠ .none ∧ (stream .running 0 true).pst = .running ∧ (stream .drain 0 true).pst = .drain := by decide

theorem witness_ConfigureNoneStopsTheStream :
    (stream .running 0 true).pst = .running ∧ (stream .fill 0 false).pst = .fill ∧ State.reset.pst = .closed ∧
    (stream .drain 0 true).pst = .drain := by decide

/-- Each of the five transitions of R251 that change `pst`. -/
theorem witness_OnlyTheListedTransitions :
    (∃ t, exec (.configure .s16 .normal) State.reset = .next t ∧ t.pst ≠ State.reset.pst) ∧
    (∃ t, exec (.configure .none .normal) (stream .fill 0 false) = .next t ∧ t.pst ≠ (stream .fill 0 false).pst) ∧
    (∃ t, exec (.configure .none .normal) (stream .running 0 true) = .next t ∧ t.pst ≠ (stream .running 0 true).pst) ∧
    (∃ t, exec (.pump 0) (stream .fill 2 false) = .next t ∧ t.pst ≠ (stream .fill 2 false).pst) ∧
    ∃ t, exec .outDone (stream .drain 0 true) = .next t ∧ t.pst ≠ (stream .drain 0 true).pst :=
  ⟨⟨_, rfl, by decide⟩, ⟨_, rfl, by decide⟩, ⟨_, rfl, by decide⟩, ⟨_, rfl, by decide⟩, _, rfl, by decide⟩

/-- The mapped and the reserved addresses meet at 0x0D, 0x0E, 0x0F, 0x10, 0x14 and 0x15. -/
theorem witness_CsrReadAnswersTheRegister :
    (0x0D : BitVec 8).toNat ≤ 0x0D ∧ (0x10 ≤ (0x10 : BitVec 8).toNat ∧ (0x14 : BitVec 8).toNat ≤ 0x14) ∧
    (0x0E : BitVec 8).toNat = 0x0E ∧ (0x0F : BitVec 8).toNat = 0x0F ∧ 0x15 ≤ (0x15 : BitVec 8).toNat := by decide

theorem witness_CsrValuesAreAssembledFromTheirFields :
    (stream .running 0 true).Inv ∧ (stream .running 0 true).csrValue? 0x07 = some 0x00000004 ∧
    (stream .running 0 true).csrValue? 0x08 = some 0x003B0004 :=
  ⟨inv_running, by decide⟩

end Sys2Proof.Tests
end

