-- ==== Sys2Proof/Proofs/Scope.lean ====
section
/-! SUPPORT. The step function by the input it finds (00_scope.md R6, R8; 20_memory.md R70; 60_exceptions.md R336), what a
decoded word says of its payload (30_encoding.md R90), and little-endian byte lists as one word (00_scope.md R11, R12); then
the statements of 00_scope.md. -/

namespace Sys2Proof

open Machine

/-! ## Framing and the decoder -/

/-- What is no transaction is told apart before anything else of the word is read (30_encoding.md R90). -/
theorem decode_eq_unframed {p : Port} {w : Word} {b : List Byte} (h : b.length ≠ payloadLength w) :
    decode p w b = .error .unframed := by
  have hlen : hasLength b (payloadLength w) = false := by
    rw [← Bool.not_eq_true, hasLength_iff]; exact h
  simp [decode, hlen]

/-- Every word that decodes was framed (30_encoding.md R90). -/
theorem length_of_decode_ok {p : Port} {w : Word} {b : List Byte} {i : Instr} (h : decode p w b = .ok i) :
    b.length = payloadLength w := by
  by_contra hlen
  rw [decode_eq_unframed hlen] at h
  cases h

/-- A PUT decodes from opcode 1 alone, with the word's `len` field and the payload as it came (30_encoding.md R92). -/
theorem decode_ok_put {p : Port} {w : Word} {b payload : List Byte} {len : BitVec 16}
    (h : decode p w b = .ok (.put len payload)) :
    opcode w = 1 ∧ len = w.extractLsb' 0 16 ∧ payload = b := by
  unfold decode at h
  split at h
  case isTrue => cases h
  split at h
  case h_2 hop =>
    obtain ⟨-, -, hput⟩ := checkRow_eq_ok.mp h
    cases hput
    exact ⟨BitVec.eq_of_toNat_eq hop, rfl, rfl⟩
  case h_5 => split at h <;> simp [checkRow_eq_ok] at h
  all_goals simp [checkRow_eq_ok] at h

/-- What decodes is a well-formed command: a PUT carries exactly its `len` bytes (30_encoding.md R90). -/
theorem decode_ok_wellFormed {p : Port} {w : Word} {b : List Byte} {i : Instr} (h : decode p w b = .ok i) :
    i.wellFormed = true := by
  cases i with
  | put len payload =>
    obtain ⟨hop, rfl, rfl⟩ := decode_ok_put h
    have hlen := length_of_decode_ok h
    rw [payloadLength, if_pos hop] at hlen
    exact beq_iff_eq.mpr hlen
  | _ => rfl

namespace Machine

/-! ## One step, by the input it finds -/

/-- 00_scope.md R8. -/
theorem step_of_illegal_config {s : State} (h : s.cfg.legal = false) : step s = .refused .illegalConfiguration := by
  simp [step, h]

theorem step_of_no_input {s : State} (hc : s.cfg.legal = true) (h : s.input = []) : step s = .next s := by
  simp [step, hc, runInput, h]

theorem step_of_command {s : State} {t : Txn} {rest : List Input} (hc : s.cfg.legal = true)
    (h : s.input = .command t :: rest) : step s = runTxn t { s with input := rest } := by
  simp [step, hc, runInput, h]

theorem runTxn_of_decode_ok {t : Txn} {i : Instr} (h : decode t.port t.word t.payload = .ok i) (s : State) :
    runTxn t s = exec i s := by
  simp [runTxn, h]

/-- The refusal of an input that is no transaction (log 7). -/
theorem runTxn_of_not_framed {t : Txn} (h : ¬ t.framed) (s : State) : runTxn t s = .refused .unframedTransaction := by
  simp [runTxn, decode_eq_unframed h]

/-! ## Bytes as one little-endian word -/

/-- `sext_N` reads an N-bit word as its two's-complement value (00_scope.md R12). -/
theorem sext_toNat {n : Nat} (hn : 0 < n) (v : BitVec n) : sext n v.toNat = v.toInt := by
  have hpow : 2 ^ n = 2 * 2 ^ (n - 1) := by rw [← pow_succ', Nat.sub_add_cancel hn]
  rw [sext, BitVec.toInt_eq_toNat_cond]
  split <;> split <;> omega

/-- A byte put below a word is the low digit in base 256 (00_scope.md R11). -/
theorem toNat_append_byte {n : Nat} (hi : BitVec n) (b : Byte) : (hi ++ b).toNat = b.toNat + 256 * hi.toNat := by
  rw [BitVec.toNat_append, ← Nat.shiftLeft_add_eq_or_of_lt b.isLt, Nat.shiftLeft_eq]
  omega

theorem littleEndian_two (b0 b1 : Byte) : littleEndian [b0, b1] = (b1 ++ b0).toNat := by
  simp [littleEndian, toNat_append_byte]

theorem littleEndian_three (b0 b1 b2 : Byte) : littleEndian [b0, b1, b2] = (b2 ++ b1 ++ b0).toNat := by
  rw [toNat_append_byte, ← littleEndian_two]; rfl

theorem littleEndian_four (b0 b1 b2 b3 : Byte) :
    littleEndian [b0, b1, b2, b3] = (b3 ++ b2 ++ b1 ++ b0).toNat := by
  rw [toNat_append_byte, ← littleEndian_three]; rfl

end Machine

/-! ## The statements -/

/-- Settles O7: the step takes the transaction, which decodes to a well-formed command. -/
theorem stepRunsTheDecodedCommand : Obligations.StepRunsTheDecodedCommand := by
  intro s t rest i hc hin hdec
  refine ⟨decode_ok_wellFormed hdec, ?_⟩
  rw [step_of_command hc hin, runTxn_of_decode_ok hdec]

/-- Settles O8, one clause for each way to find no command. -/
theorem stepWithoutACommand : Obligations.StepWithoutACommand := by
  refine ⟨fun s => step_of_illegal_config, fun s => step_of_no_input, ?_⟩
  intro s t rest hc hin hframed
  rw [step_of_command hc hin, runTxn_of_not_framed hframed]

/-- Settles O19: the sizes by the format, and each integer format by reading its bytes as one word. -/
theorem integerSamplesDecodeExactly : Obligations.IntegerSamplesDecodeExactly := by
  refine ⟨rfl, fun f => rfl, fun b0 b1 => ?_, fun b0 b1 b2 => ?_, fun b0 b1 b2 b3 => ?_⟩
  · rw [decodeSample, littleEndian_two, sext_toNat (by decide)]; rfl
  · rw [decodeSample, littleEndian_three, sext_toNat (by decide)]; rfl
  · rw [decodeSample, littleEndian_four, sext_toNat (by decide)]

end Sys2Proof
end

