-- ==== Sys2Proof/Proofs/State.lean ====
section
/-! SUPPORT. The invariant `State.Inv` across a step: one lemma for each operation of the model that a command is made of,
the commands by their case, the step by the input it finds, and runs; then the statements of 10_state.md. Each lemma names
only the parts of the invariant its operation touches and takes the others over. -/

namespace Sys2Proof

namespace Machine

/-! ## Reset -/

theorem zeroRows_shape (rows cols : Nat) : hasShape (zeroRows rows cols) rows cols := by
  refine ⟨List.length_replicate, fun row hrow => ?_⟩
  rw [List.eq_of_mem_replicate hrow, List.length_replicate]

/-- The nominal rate fits the 24-bit register of the reported value (00_scope.md R8). -/
theorem nom_register {c : Config} (L : LegalFacts c) (r : Rate) :
    (BitVec.ofNat 24 (c.at r).nom).toNat = (c.at r).nom := by
  have hnom := L.fb2 r
  have hmax := L.fb3 r
  rw [BitVec.toNat_ofNat]
  omega

/-- R38 and the ranges hold at reset (70_reset_and_hazards.md R340): the ring is empty, the views are exact, and the
reported value is the nominal one. -/
theorem resetOf_inv {c : Config} (hc : c.legal = true) : (State.resetOf c).Inv := by
  have L := legal_facts hc
  have hsize : 0 < c.rbSize := Nat.two_pow_pos _
  have hticks : 0 < 2 ^ c.sofShift := Nat.two_pow_pos _
  have hvalue : (State.resetOf c).fbValue.toNat = (c.at .normal).nom := nom_register L .normal
  constructor
  case r38 => constructor <;> simp [State.resetOf]
  case fbValue_ge => exact hvalue ▸ L.fb1 .normal
  case fbValue_le => exact hvalue ▸ L.fb2 .normal
  case bl_shape => exact zeroRows_shape _ _
  case nse_shape => exact zeroRows_shape _ _
  all_goals simp [State.resetOf, State.count, Memory.wf, Memory.below, Memory.atLeast, hc, hsize, hticks]

/-- Power-on reset gives the invariant whatever the state was (70_reset_and_hazards.md R342). -/
theorem powerOn_inv {s : State} (hc : s.cfg.legal = true) : (powerOn s).Inv :=
  have h := resetOf_inv hc
  { h with r38 := { h.r38 with } }

/-! ## Events, responses and pending bits -/

theorem raise_inv {s : State} (hi : s.Inv) (e : Event) (info : Nat) : (raise e info s).Inv :=
  { hi with r38 := { hi.r38 with } }

theorem respond_inv {s : State} (hi : s.Inv) (p : Port) (v : Word) : (respond p v s).Inv :=
  { hi with r38 := { hi.r38 with } }

theorem clearPending_inv {s : State} (hi : s.Inv) (mask : BitVec 8) : (clearPending mask s).Inv :=
  { hi with r38 := { hi.r38 with } }

theorem illegalCommand_inv {s : State} (hi : s.Inv) (t : Txn) : (illegalCommand t s).Inv := by
  unfold illegalCommand
  split
  · exact respond_inv (raise_inv hi _ _) _ _
  · exact raise_inv hi _ _

/-! ## The views (20_memory.md R71) -/

/-- From the producer's view to `head` lie the slots freed since its snapshot and the bytes held. -/
theorem lagP_add_count {s : State} (hi : s.Inv) : s.lagP + s.count = modDist s.cfg.rbSize s.head s.tailPv := by
  have hsum := spaceP_add_lagP hi
  have hcount : s.count < s.cfg.rbSize := modDist_lt _ _ (rbSize_pos hi)
  have hdist := modDist_lt s.head s.tailPv (rbSize_pos hi)
  unfold State.spaceP State.space at hsum
  omega

/-- The producer's view moves toward `tail` and does not pass it. -/
theorem refreshTailPv_inv {s : State} (hi : s.Inv) {k : Nat} (hk : k ≤ s.lagP) : (refreshTailPv k s).Inv := by
  have hview : modDist s.cfg.rbSize s.tail ((s.tailPv + k) % s.cfg.rbSize) = s.lagP - k :=
    modDist_add_right hi.tail_lt hi.tailPv_lt hk
  have hdist := modDist_add_right hi.head_lt hi.tailPv_lt (hk.trans (lagP_le_distance hi))
  have hle := lagP_le_distance hi
  exact
    { hi with
      r38 := { hi.r38 with
        b_producer_view := by simp only [refreshTailPv, hview, hdist]; omega }
      tailPv_lt := Nat.mod_lt _ (rbSize_pos hi) }

/-- The consumer's view moves toward `head` and does not pass it. -/
theorem refreshHeadCv_inv {s : State} (hi : s.Inv) {k : Nat} (hk : k ≤ s.lagC) : (refreshHeadCv k s).Inv := by
  have hview : (refreshHeadCv k s).countC ≤ s.count := by
    have := lagC_add_countC hi
    rw [countC_refresh hi hk]
    omega
  exact
    { hi with
      r38 := { hi.r38 with b_consumer_view := hview }
      headCv_lt := Nat.mod_lt _ (rbSize_pos hi) }

/-! ## PUT (40_ring_buffer.md R124) -/

/-- The space the producer sees is free, and one slot besides (40_ring_buffer.md R122). -/
theorem count_add_spaceP_lt {s : State} (hi : s.Inv) : s.count + s.spaceP < s.cfg.rbSize := by
  have hspace := spaceP_add_lagP hi
  have hcount : s.count < s.cfg.rbSize := modDist_lt _ _ (rbSize_pos hi)
  unfold State.space at hspace
  omega

/-- A packet that fits the producer's space fits the ring. -/
theorem storePacket_count {s : State} (hi : s.Inv) {n left : Nat} {b : List Byte} (hn : n ≤ s.spaceP) :
    (storePacket n left b s).count = s.count + n := by
  have hfree := count_add_spaceP_lt hi
  exact modDist_add_left hi.head_lt hi.tail_lt (show s.count + n < s.cfg.rbSize by omega)

/-- Every held slot is written: the old ones keep their bytes, the new ones hold the packet (20_memory.md R72). -/
theorem storePacket_held_written {s : State} (hi : s.Inv) {n left : Nat} {b : List Byte} (hn : n ≤ s.spaceP)
    (hb : n ≤ b.length) :
    ∀ i < (storePacket n left b s).count,
      (Memory.read? (storePacket n left b s).mem ((s.tail + i) % s.cfg.rbSize)).isSome = true := by
  intro i hlt
  rw [storePacket_count hi hn] at hlt
  have hfree := count_add_spaceP_lt hi
  have hlen : (b.take n).length = n := List.length_take_of_le hb
  simp only [storePacket]
  by_cases hold : i < s.count
  · have hkept : ∀ j < (b.take n).length, (s.head + j) % s.cfg.rbSize ≠ (s.tail + i) % s.cfg.rbSize := fun j hj =>
      held_apart hi.head_lt hi.tail_lt hold (show s.count + j < s.cfg.rbSize by omega)
    rw [ringWrites_read_other hkept]
    exact hi.held_written i hold
  · have hslot : (s.tail + i) % s.cfg.rbSize = (s.head + (i - s.count)) % s.cfg.rbSize := by
      have hhead : (s.tail + s.count) % s.cfg.rbSize = s.head := add_modDist hi.head_lt hi.tail_lt
      rw [← hhead, Nat.mod_add_mod]
      congr 1
      omega
    rw [hslot, ringWrites_read (by omega) (by omega)]
    rfl

/-- Storing whole frames within the producer's space keeps the invariant. -/
theorem storePacket_inv {s : State} (hi : s.Inv) {n left : Nat} {b : List Byte} (hn : n ≤ s.spaceP) (hb : n ≤ b.length)
    (hframes : s.fmt ≠ .none → n % s.fmt.frameBytes = 0) : (storePacket n left b s).Inv := by
  have hsize := rbSize_pos hi
  have hcount := storePacket_count (left := left) (b := b) hi hn
  have hdist :
      modDist s.cfg.rbSize ((s.head + n) % s.cfg.rbSize) s.tailPv = modDist s.cfg.rbSize s.head s.tailPv + n := by
    refine modDist_add_left hi.head_lt hi.tailPv_lt ?_
    have := modDist_lt s.head s.tailPv hsize
    unfold State.spaceP at hn
    omega
  exact
    { hi with
      r38 := { hi.r38 with
        a_not_overfull := Nat.le_sub_one_of_lt (modDist_lt _ _ hsize)
        b_producer_view := by
          simp only [storePacket, hdist]
          exact (lagP_le_distance hi).trans (Nat.le_add_right _ _)
        b_consumer_view := by
          rw [show modDist _ _ _ = s.count + n from hcount]
          exact hi.r38.b_consumer_view.trans (Nat.le_add_right _ _) }
      head_lt := Nat.mod_lt _ hsize
      mem_wf := ringWrites_wf hi.mem_wf _ _
      mem_slots := ringWrites_below hsize hi.mem_slots _ _
      held_written := storePacket_held_written hi hn hb
      whole_frames := fun hf => by
        rw [hcount, storePacket_fmt, Nat.add_mod, hi.whole_frames hf, hframes hf, Nat.zero_mod] }

theorem wholeFrames_le (f : Fmt) (len : Nat) : wholeFrames f len ≤ len := by
  unfold wholeFrames
  split <;> omega

theorem wholeFrames_mod {f : Fmt} (hf : f ≠ .none) (len : Nat) : wholeFrames f len % f.frameBytes = 0 := by
  rw [wholeFrames, if_neg hf, Nat.mod_eq_zero_of_dvd (Nat.dvd_sub_mod _)]

theorem putMalformed_inv {s : State} (hi : s.Inv) (len : Nat) : (putMalformed len s).Inv := by
  unfold putMalformed
  split
  · exact raise_inv hi _ _
  · exact hi

theorem putStore_inv {s : State} (hi : s.Inv) {n : Nat} {b : List Byte} (hb : n ≤ b.length)
    (hframes : s.fmt ≠ .none → n % s.fmt.frameBytes = 0) : (putStore n b s).Inv := by
  unfold putStore
  split
  · exact respond_inv (raise_inv hi _ _) _ _
  · exact respond_inv (storePacket_inv hi (by omega) hb hframes) _ _

/-- A PUT with all its payload bytes, whatever its draw. -/
theorem putWith_inv {s : State} (hi : s.Inv) {k : Nat} (hk : k ≤ s.lagP) {len : BitVec 16} {b : List Byte}
    (hb : b.length = len.toNat) : (putWith k len b s).Inv := by
  have hle := wholeFrames_le s.fmt len.toNat
  refine putStore_inv (putMalformed_inv (refreshTailPv_inv hi hk) _) (by omega) fun hf => ?_
  rw [putMalformed_fmt, refreshTailPv_fmt] at hf ⊢
  exact wholeFrames_mod hf _

/-! ## PUMP (45_pump_control.md R252) -/

/-- A chunk in the consumer's view is held, and taking it leaves the rest. -/
theorem pumpData_count {s : State} (hi : s.Inv) (h : BitVec 1) (hk : s.chunkBytes ≤ s.countC) :
    (pumpData h s).count = s.count - s.chunkBytes :=
  modDist_add_right hi.head_lt hi.tail_lt (hk.trans hi.r38.b_consumer_view)

/-- The half that a PUMP writes lies in the output buffer (20_memory.md R64). -/
theorem outAddr_half_le {c : Config} (h : BitVec 1) :
    c.outBase ≤ c.outAddr h.toNat 0 ∧ c.outAddr h.toNat 0 + c.halfBytes ≤ c.outBase + 2 * c.halfBytes := by
  have hhalf : h.toNat * c.halfBytes ≤ 1 * c.halfBytes := Nat.mul_le_mul_right _ (by have := h.isLt; omega)
  unfold Config.outAddr
  omega

/-- Taking a chunk that is in the consumer's view keeps the invariant. -/
theorem pumpData_inv {s : State} (hi : s.Inv) (h : BitVec 1) (hk : s.chunkBytes ≤ s.countC) : (pumpData h s).Inv := by
  have L := legal_facts hi.legal
  have hsize := rbSize_pos hi
  have hview : s.countC ≤ s.count := hi.r38.b_consumer_view
  have hcount := pumpData_count hi h hk
  have hsum := lagP_add_count hi
  have hlag : (pumpData h s).lagP = s.lagP + s.chunkBytes := by
    refine modDist_add_left hi.tail_lt hi.tailPv_lt (show s.lagP + s.chunkBytes < s.cfg.rbSize from ?_)
    have := modDist_lt s.head s.tailPv hsize
    omega
  obtain ⟨hlow, hhigh⟩ := outAddr_half_le (c := s.cfg) h
  have hcodes : 2 * s.pumpShaped.codes.length = s.cfg.halfBytes := by
    rw [pumpShaped_codes_length L, Config.halfBytes, Nat.mul_comm]
  exact
    { hi with
      r38 := { hi.r38 with
        a_not_overfull := Nat.le_sub_one_of_lt (modDist_lt _ _ hsize)
        b_producer_view := by
          rw [show modDist _ _ _ = s.lagP + s.chunkBytes from hlag]
          change s.lagP + s.chunkBytes ≤ modDist s.cfg.rbSize s.head s.tailPv
          omega
        b_consumer_view := by
          rw [show modDist _ (pumpData h s).head _ = s.count - s.chunkBytes from hcount]
          exact (modDist_add_right hi.headCv_lt hi.tail_lt hk).trans_le (Nat.sub_le_sub_right hview _) }
      tail_lt := Nat.mod_lt _ hsize
      held_written := fun i hlt => by
        rw [hcount] at hlt
        have hslot := hi.held_written (s.chunkBytes + i) (by omega)
        simpa only [pumpData, Nat.mod_add_mod, Nat.add_assoc] using hslot
      whole_frames := fun hf => by
        rw [hcount]
        have hchunk : s.fmt.frameBytes ∣ s.chunkBytes := Nat.dvd_mul_right _ _
        exact Nat.mod_eq_zero_of_dvd (Nat.dvd_sub (Nat.dvd_of_mod_eq_zero (hi.whole_frames hf)) hchunk)
      out_wf := writeCodes_wf hi.out_wf _ _
      out_low := writeCodes_atLeast hi.out_low hlow
      out_high := writeCodes_below hi.out_high (by rw [hcodes]; exact hhigh)
      bl_shape := shiftBacklog_shape _ _ _ _
      nse_shape := shapeFrames_rows_shape _ _ _ hi.nse_shape }

theorem pumpSat_inv {s : State} (hi : s.Inv) (n : Nat) : (pumpSat n s).Inv := by
  unfold pumpSat
  split
  · exact raise_inv hi _ _
  · exact hi

/-- In FILL the marked halves stay less than both: the pump that marks the second enters RUNNING (R253). -/
theorem pumpFill_inv {s : State} (hi : s.Inv) (h : BitVec 1) : (pumpFill h s).Inv := by
  unfold pumpFill
  split
  case isFalse => exact hi
  case isTrue hfill =>
    split
    case isTrue =>
      refine raise_inv ?_ _ _
      exact
        { hi with
          r38 := { hi.r38 with
            c_format := by simp [hi.r38.c_format, hfill]
            d_filled := fun _ => rfl
            e_output_enable := by simp }
          not_both := by simp }
    case isFalse hboth =>
      exact { hi with r38 := { hi.r38 with d_filled := fun hne => absurd hfill hne }, not_both := hboth }

theorem pumpShort_inv {s : State} (hi : s.Inv) : (pumpShort s).Inv := by
  unfold pumpShort
  split
  · exact raise_inv hi _ _
  · exact hi

theorem pumpNow_inv {s : State} (hi : s.Inv) (h : BitVec 1) : (pumpNow h s).Inv := by
  unfold pumpNow
  split
  · exact pumpShort_inv hi
  · exact pumpFill_inv (pumpSat_inv (pumpData_inv hi h (by omega)) _) h

/-! ## Stream control (45_pump_control.md R251, R262) -/

/-- The set-up of a stream outside RUNNING and DRAIN: the ring is empty and the reported value nominal. -/
theorem setUp_fill_inv {s : State} (hi : s.Inv) {f : Fmt} (r : Rate) (hf : f ≠ .none) (hout : s.outEn = false) :
    State.Inv { setUp f r s with pst := .fill } := by
  have L := legal_facts hi.legal
  have hsize := rbSize_pos hi
  have hvalue := nom_register L r
  exact
    { hi with
      r38 := { hi.r38 with
        a_not_overfull := by simp
        b_producer_view := by simp
        b_consumer_view := by simp
        c_format := by simp [hf]
        d_filled := fun _ => rfl
        e_output_enable := by simp [hout] }
      head_lt := hsize
      tail_lt := hsize
      tailPv_lt := hsize
      headCv_lt := hsize
      sofcnt_lt := Nat.two_pow_pos _
      not_both := by simp
      fbValue_ge := (L.fb1 r).trans_eq hvalue.symm
      fbValue_le := hvalue.trans_le (L.fb2 r)
      sent := by simp
      held_written := by simp [State.count]
      whole_frames := by simp [State.count]
      bl_shape := zeroRows_shape _ _
      nse_shape := zeroRows_shape _ _ }

theorem enterClosed_inv {s : State} (hi : s.Inv) : (enterClosed s).Inv :=
  { hi with
    r38 := { hi.r38 with
      c_format := by simp
      d_filled := fun _ => rfl
      e_output_enable := by simp }
    not_both := by simp
    whole_frames := fun hf => absurd rfl hf }

/-- RUNNING to DRAIN: the format and the output stay (R261). -/
theorem drain_inv {s : State} (hi : s.Inv) (hrun : s.pst = .running) : State.Inv { s with pst := .drain } :=
  { hi with
    r38 := { hi.r38 with
      c_format := by simp [hi.r38.c_format, hrun]
      d_filled := fun _ => hi.r38.d_filled (by simp [hrun])
      e_output_enable := by simp [hi.r38.e_output_enable, hrun] } }

theorem configureStream_inv {s : State} (hi : s.Inv) {f : Fmt} (hf : f ≠ .none) (r : Rate) :
    (configureStream f r s).Inv := by
  have hout : s.pst ≠ .running → s.pst ≠ .drain → s.outEn = false := by
    intro hrun hdrain
    simp [← Bool.not_eq_true, hi.r38.e_output_enable, hrun, hdrain]
  unfold configureStream
  split
  case h_1 hclosed => exact raise_inv (setUp_fill_inv hi r hf (hout (by simp [hclosed]) (by simp [hclosed]))) _ _
  case h_2 hfill => exact setUp_fill_inv hi r hf (hout (by simp [hfill]) (by simp [hfill]))
  case h_3 => exact raise_inv hi _ _
  case h_4 => exact raise_inv hi _ _

theorem configureStop_inv {s : State} (hi : s.Inv) : (configureStop s).Inv := by
  unfold configureStop
  split
  case h_1 => exact hi
  case h_2 => exact raise_inv (enterClosed_inv hi) _ _
  case h_3 hrun => exact raise_inv (drain_inv hi hrun) _ _
  case h_4 => exact hi

/-! ## The feedback controller (44_feedback.md R224, R230) -/

/-- The invariant but for the clause that no value waits at a free endpoint (R230): it holds once the endpoint is taken.
This is what a command leaves before its send test. -/
def State.InvBeforeSend (s : State) : Prop := State.Inv { s with epFree := false }

theorem invBeforeSend_of_inv {s : State} (hi : s.Inv) (free : Bool) : State.InvBeforeSend { s with epFree := free } :=
  { hi with r38 := { hi.r38 with }, sent := by simp }

/-- The send test restores the clause: a value that waits at a free endpoint is sent, and both flags fall. -/
theorem trySend_inv {s : State} (hi : s.InvBeforeSend) : (trySend s).Inv := by
  unfold trySend
  split
  case isTrue => exact { hi with r38 := { hi.r38 with }, sent := by simp }
  case isFalse hsent => exact { hi with r38 := { hi.r38 with }, sent := hsent }

theorem countTick_inv {s : State} (hi : s.Inv) : (countTick s).Inv :=
  { hi with r38 := { hi.r38 with }, sofcnt_lt := Nat.mod_lt _ (Nat.two_pow_pos _) }

theorem lostReport_inv {s : State} (hi : s.Inv) : (lostReport s).Inv := by
  unfold lostReport
  split
  · exact raise_inv hi _ _
  · exact hi

/-- The new value lies within the bounds of its rate class (R222). -/
theorem newReport_invBeforeSend {s : State} (hi : s.Inv) : (newReport s).InvBeforeSend := by
  have L := legal_facts hi.legal
  have hvalue := fbComputeAt_register L s.pst s.rate s.delta.toNat
  obtain ⟨hmin, hmax⟩ := fbComputeAt_range L s.pst s.rate s.delta.toNat
  exact
    { hi with
      r38 := { hi.r38 with }
      fbValue_ge := by exact_mod_cast hmin.trans_eq hvalue.symm
      fbValue_le := by exact_mod_cast hvalue.trans_le hmax
      sent := by simp }

theorem sofTick_inv {s : State} (hi : s.Inv) : (sofTick s).Inv := by
  unfold sofTick
  apply trySend_inv
  split
  · exact newReport_invBeforeSend (lostReport_inv (countTick_inv hi))
  · exact invBeforeSend_of_inv (countTick_inv hi) s.epFree

/-! ## Commands, steps and runs -/

/-- Every command keeps the invariant; a PUT has to bring all its bytes, or it would leave a held slot unwritten. -/
theorem exec_inv {i : Instr} {s t : State} (hi : s.Inv) (hw : i.wellFormed = true) (h : exec i s = .next t) : t.Inv := by
  have hcase := exec_next_cases h
  cases i with
  | nop => exact hcase ▸ hi
  | put len b => exact hcase ▸ putWith_inv hi (drawView_le _ _) (beq_iff_eq.mp hw)
  | sof => exact hcase ▸ sofTick_inv hi
  | fbDone => exact hcase ▸ trySend_inv (invBeforeSend_of_inv hi true)
  | configure f r =>
    rw [show t = _ from hcase]
    split
    case isTrue => exact configureStop_inv hi
    case isFalse hf => exact configureStream_inv hi hf r
  | setMute m => exact hcase ▸ { hi with r38 := { hi.r38 with } }
  | setAtten x => exact hcase ▸ { hi with r38 := { hi.r38 with f_attenuation := Nat.min_le_right _ _ } }
  | pump half =>
    rw [show t = _ from hcase]
    split
    case isTrue => exact hi
    case isFalse => exact pumpNow_inv (refreshHeadCv_inv hi (drawView_le _ _)) half
  | outDone =>
    rw [show t = _ from hcase]
    split
    case isTrue => exact raise_inv (enterClosed_inv hi) _ _
    case isFalse => exact hi
  | csrRead a =>
    rw [show t = _ from hcase]
    split
    · exact respond_inv hi _ _
    · exact respond_inv (raise_inv hi _ _) _ _
  | setIe m => exact hcase ▸ { hi with r38 := { hi.r38 with } }
  | ack m => exact hcase ▸ clearPending_inv hi m

/-- What a transaction that answers can be: a legal command or an illegal one (30_encoding.md R94). -/
theorem runTxn_next_cases {x : Txn} {s t : State} (h : runTxn x s = .next t) :
    (∃ i, decode x.port x.word x.payload = .ok i ∧ exec i s = .next t) ∨ t = illegalCommand x s := by
  unfold runTxn at h
  split at h
  case h_1 i hdec => exact .inl ⟨i, hdec, h⟩
  case h_2 => cases h
  all_goals exact .inr (Host.Outcome.next.inj h).symm

/-- What a step that answers can be (60_exceptions.md R336, 30_encoding.md R94, 70_reset_and_hazards.md R342). -/
theorem step_next_cases {s t : State} (h : step s = .next t) :
    s.cfg.legal = true ∧
      (t = s ∨
        ∃ rest,
          (∃ i, i.wellFormed = true ∧ exec i { s with input := rest } = .next t) ∨
          (∃ x, t = illegalCommand x { s with input := rest }) ∨
          t = powerOn { s with input := rest }) := by
  unfold step at h
  split at h
  case isFalse => cases h
  case isTrue hc =>
    refine ⟨hc, ?_⟩
    unfold runInput at h
    split at h
    case h_1 => exact .inl (Host.Outcome.next.inj h).symm
    case h_2 x rest _ =>
      refine .inr ⟨rest, ?_⟩
      obtain ⟨i, hdec, hexec⟩ | hill := runTxn_next_cases h
      · exact .inl ⟨i, decode_ok_wellFormed hdec, hexec⟩
      · exact .inr (.inl ⟨x, hill⟩)
    case h_3 rest _ => exact .inr ⟨rest, .inr (.inr (Host.Outcome.next.inj h).symm)⟩

/-- The inputs to come are no part of the invariant. -/
theorem withInput_inv {s : State} (hi : s.Inv) (inputs : List Input) : State.Inv { s with input := inputs } :=
  { hi with r38 := { hi.r38 with } }

/-- What every step keeps, every run keeps. -/
theorem run_keeps {M : Host.Core} {P : M.State → Prop} (hstep : ∀ s t, P s → M.step s = .next t → P t) :
    ∀ (n : Nat) (s t : M.State), P s → M.run n s = .next t → P t := by
  intro n
  induction n with
  | zero => intro s t hs h; cases h; exact hs
  | succ k ih =>
    intro s t hs h
    simp only [Host.Core.run] at h
    split at h
    case h_1 u hu => exact ih u t (hstep s u hs hu) h
    all_goals cases h

/-! ## The bytes of the two memories -/

theorem ringRead_of_same {s t : State} (hc : t.cfg = s.cfg) (hr : t.resets = s.resets) (hm : t.mem = s.mem) (slot : Nat) :
    t.ringRead slot = s.ringRead slot := by
  simp only [State.ringRead, hc, hr, hm]

theorem outRead_of_same {s t : State} (hr : t.resets = s.resets) (hm : t.outBuf = s.outBuf) (a : Nat) :
    t.outRead a = s.outRead a := by
  simp only [State.outRead, hr, hm]

/-- The fields that a byte of the ring storage or of the output buffer is read from are the same. -/
def SameMemories (s t : State) : Prop := t.cfg = s.cfg ∧ t.resets = s.resets ∧ t.mem = s.mem ∧ t.outBuf = s.outBuf

/-- Only PUT and PUMP write a memory (10_state.md R22, R35). -/
theorem exec_sameMemories {i : Instr} {s t : State} (hput : ∀ len b, i ≠ .put len b) (hpump : ∀ h, i ≠ .pump h)
    (h : exec i s = .next t) : SameMemories s t := by
  have hcase := exec_next_cases h
  unfold SameMemories
  cases i with
  | put len b => exact absurd rfl (hput len b)
  | pump half => exact absurd rfl (hpump half)
  | configure f r => rw [show t = _ from hcase]; split <;> simp
  | outDone => rw [show t = _ from hcase]; split <;> simp
  | csrRead a => rw [show t = _ from hcase]; split <;> simp
  | _ => rw [show t = _ from hcase]; simp

end Machine

open Machine

/-! ## The statements -/

/-- Settles O12: the step is idle, a command, an illegal word or a power-on reset, and each keeps the invariant. -/
theorem everyStepKeepsTheInvariant : Obligations.EveryStepKeepsTheInvariant := by
  intro s t hi h
  obtain ⟨hc, rfl | ⟨rest, hcase⟩⟩ := step_next_cases h
  · exact hi
  · have hrest := withInput_inv hi rest
    obtain ⟨i, hw, hexec⟩ | ⟨x, rfl⟩ | rfl := hcase
    · exact exec_inv hrest hw hexec
    · exact illegalCommand_inv hrest x
    · exact powerOn_inv hc

/-- Settles O13: the invariant holds at reset, whatever inputs wait, and every run keeps it. -/
theorem reachableStatesSatisfyR38 : Obligations.ReachableStatesSatisfyR38 := by
  intro c inputs n t hc hrun
  have hstart : State.Inv { State.resetOf c with input := inputs } := withInput_inv (resetOf_inv hc) inputs
  have hend : t.Inv := run_keeps (M := core) everyStepKeepsTheInvariant n _ t hstart hrun
  exact hend.r38

/-- Settles O55: a byte is read from fields that only PUT and PUMP write. -/
theorem otherCommandsLeaveMemory : Obligations.OtherCommandsLeaveMemory := by
  intro i s t hput hpump h
  obtain ⟨hcfg, hresets, hmem, hout⟩ := exec_sameMemories hput hpump h
  exact ⟨ringRead_of_same hcfg hresets hmem, outRead_of_same hresets hout⟩

end Sys2Proof
end

section
/-! SUPPORT. The ring as a queue of bytes (20_memory.md R73): the fields it is read from, and what each operation of the
model does to them; what no command writes (R70, R81); and the elements of the half a PUMP writes (R63, R64); then the
statements of 20_memory.md. -/

namespace Sys2Proof

namespace Machine

/-! ## The bytes the ring holds -/

@[simp] theorem ringBytes_length (s : State) (n : Nat) : (s.ringBytes n).length = n := by simp [State.ringBytes]

@[simp] theorem held_length (s : State) : s.held.length = s.count := ringBytes_length s _

/-- Bytes in logical order, cut in two (40_ring_buffer.md R123). -/
theorem ringBytes_add (s : State) (m n : Nat) :
    s.ringBytes (m + n) = s.ringBytes m ++ (List.range n).map fun i => s.ringRead (s.tail + m + i) := by
  simp [State.ringBytes, List.range_add, Function.comp_def, Nat.add_assoc]

/-- Indices that fall on one slot read one byte (00_scope.md R13). -/
theorem ringRead_congr {s : State} {i j : Nat} (h : i % s.cfg.rbSize = j % s.cfg.rbSize) : s.ringRead i = s.ringRead j := by
  simp only [State.ringRead, h]

/-- The fields that the held bytes are read from are the same. -/
def SameRing (s t : State) : Prop :=
  t.cfg = s.cfg ∧ t.resets = s.resets ∧ t.mem = s.mem ∧ t.head = s.head ∧ t.tail = s.tail

theorem ringBytes_of_sameRing {s t : State} (h : SameRing s t) (n : Nat) : t.ringBytes n = s.ringBytes n := by
  obtain ⟨hcfg, hresets, hmem, -, htail⟩ := h
  simp only [State.ringBytes, htail, ringRead_of_same hcfg hresets hmem]

theorem held_of_sameRing {s t : State} (h : SameRing s t) : t.held = s.held := by
  have hcount : t.count = s.count := by
    obtain ⟨hcfg, -, -, hhead, htail⟩ := h
    simp only [State.count, hcfg, hhead, htail]
  rw [State.held, hcount, ringBytes_of_sameRing h, State.held]

theorem raise_sameRing (e : Event) (info : Nat) (s : State) : SameRing s (raise e info s) := by simp [SameRing]

/-- Of all commands only PUT, PUMP and CONFIGURE write what the held bytes are read from. -/
theorem exec_sameRing {i : Instr} {s t : State} (hput : ∀ len b, i ≠ .put len b) (hpump : ∀ h, i ≠ .pump h)
    (hconf : ∀ f r, i ≠ .configure f r) (h : exec i s = .next t) : SameRing s t := by
  obtain ⟨hcfg, hresets, hmem, -⟩ := exec_sameMemories hput hpump h
  refine ⟨hcfg, hresets, hmem, ?_⟩
  have hcase := exec_next_cases h
  cases i with
  | put len b => exact absurd rfl (hput len b)
  | pump half => exact absurd rfl (hpump half)
  | configure f r => exact absurd rfl (hconf f r)
  | outDone => rw [show t = _ from hcase]; split <;> simp
  | csrRead a => rw [show t = _ from hcase]; split <;> simp
  | _ => rw [show t = _ from hcase]; simp

/-! ## PUT appends (40_ring_buffer.md R124) -/

/-- A packet that fits the producer's space leaves every held byte in its slot (40_ring_buffer.md R122). -/
theorem storePacket_ringRead_held {s : State} (hi : s.Inv) {n left : Nat} {b : List Byte} (hn : n ≤ s.spaceP) {i : Nat}
    (hlt : i < s.count) : (storePacket n left b s).ringRead (s.tail + i) = s.ringRead (s.tail + i) := by
  have hfree := count_add_spaceP_lt hi
  have hlen : (b.take n).length ≤ n := List.length_take_le n b
  have hapart : ∀ j < (b.take n).length, (s.head + j) % s.cfg.rbSize ≠ (s.tail + i) % s.cfg.rbSize := fun j hj =>
    held_apart hi.head_lt hi.tail_lt hlt (show s.count + j < s.cfg.rbSize by omega)
  simp only [State.ringRead, storePacket, ringWrites_read_other hapart]

/-- The packet's bytes stand from `head` on. -/
theorem storePacket_ringRead_stored {s : State} (hi : s.Inv) {n left : Nat} {b : List Byte} (hn : n ≤ s.spaceP) {i : Nat}
    (hlt : i < (b.take n).length) : (storePacket n left b s).ringRead (s.head + i) = (b.take n)[i] := by
  have hfree := count_add_spaceP_lt hi
  have hlen : (b.take n).length ≤ n := List.length_take_le n b
  simp only [State.ringRead, storePacket, ringWrites_read hlt (show (b.take n).length ≤ s.cfg.rbSize by omega)]

/-- `count` slots past `tail` is `head`'s slot (40_ring_buffer.md R120). -/
theorem tail_add_count_mod {s : State} (hi : s.Inv) (i : Nat) :
    (s.tail + s.count + i) % s.cfg.rbSize = (s.head + i) % s.cfg.rbSize := by
  have hhead : (s.tail + s.count) % s.cfg.rbSize = s.head := add_modDist hi.head_lt hi.tail_lt
  rw [← hhead, Nat.mod_add_mod]

theorem storePacket_held {s : State} (hi : s.Inv) {n left : Nat} {b : List Byte} (hn : n ≤ s.spaceP) (hb : n ≤ b.length) :
    (storePacket n left b s).held = s.held ++ b.take n := by
  have hlen : (b.take n).length = n := List.length_take_of_le hb
  rw [State.held, storePacket_count hi hn, ringBytes_add]
  congr 1
  · exact List.map_congr_left fun i hlt => storePacket_ringRead_held hi hn (List.mem_range.mp hlt)
  · refine List.ext_getElem (by simp [hb]) fun i hlt hlt' => ?_
    rw [List.getElem_map, List.getElem_range, ← storePacket_ringRead_stored (left := left) hi hn hlt']
    exact ringRead_congr (tail_add_count_mod hi i)

theorem putResponse_msb (accepted : Bool) (space : Nat) : (putResponse accepted space).msb = accepted := by
  change BitVec.msb (n := 1 + 15 + 16) (BitVec.ofBool accepted ++ 0#15 ++ BitVec.ofNat 16 space) = accepted
  rw [BitVec.msb_append, BitVec.msb_append]
  simp

/-- PUT's steps 3 and 4 append the whole packet or nothing, and the response says which (40_ring_buffer.md R124). -/
theorem putStore_held {s : State} (hi : s.Inv) {n : Nat} {b : List Byte} (hb : n ≤ b.length) :
    ∃ v : Word, (putStore n b s).outputs = s.outputs ++ [.response .producer v] ∧
      (putStore n b s).held = s.held ++ if v.msb then b.take n else [] := by
  unfold putStore
  split
  case isTrue =>
    refine ⟨putResponse false s.spaceP, by simp, ?_⟩
    rw [putResponse_msb, if_neg Bool.false_ne_true, List.append_nil]
    exact held_of_sameRing (by simp [SameRing])
  case isFalse hfits =>
    refine ⟨putResponse true (s.spaceP - n), by simp, ?_⟩
    rw [putResponse_msb, if_pos rfl, ← storePacket_held (left := s.spaceP - n) hi (by omega) hb]
    exact held_of_sameRing (by simp [SameRing])

theorem putWith_held {s : State} (hi : s.Inv) {k : Nat} (hk : k ≤ s.lagP) {len : BitVec 16} {b : List Byte}
    (hb : b.length = len.toNat) :
    ∃ v : Word, (putWith k len b s).outputs = s.outputs ++ [.response .producer v] ∧
      (putWith k len b s).held = s.held ++ if v.msb then b.take (s.putBytes len) else [] := by
  have hle := wholeFrames_le s.fmt len.toNat
  have hready : (putMalformed len.toNat (refreshTailPv k s)).Inv := putMalformed_inv (refreshTailPv_inv hi hk) _
  have hsame : SameRing s (putMalformed len.toNat (refreshTailPv k s)) := by simp [SameRing]
  have hput := putStore_held hready (n := wholeFrames s.fmt len.toNat) (b := b) (by omega)
  rwa [held_of_sameRing hsame, putMalformed_outputs, refreshTailPv_outputs] at hput

/-! ## PUMP takes one chunk from the front (45_pump_control.md R252) -/

theorem pumpNow_of_short {s : State} (h : BitVec 1) (hshort : s.countC < s.chunkBytes) : pumpNow h s = pumpShort s :=
  if_pos hshort

theorem pumpNow_of_chunk {s : State} (h : BitVec 1) (hchunk : s.chunkBytes ≤ s.countC) : pumpNow h s = pumpRun h s :=
  if_neg (Nat.not_lt.mpr hchunk)

/-- Of a PUMP that runs, the data path alone writes the ring's fields (45_pump_control.md R252, R253). -/
theorem pumpRun_sameRing (h : BitVec 1) (s : State) : SameRing (pumpData h s) (pumpRun h s) := by
  simp [SameRing, pumpRun]

theorem pumpData_held {s : State} (hi : s.Inv) (h : BitVec 1) (hchunk : s.chunkBytes ≤ s.countC) :
    s.ringBytes s.chunkBytes ++ (pumpData h s).held = s.held := by
  have hview : s.countC ≤ s.count := hi.r38.b_consumer_view
  have hsplit : s.count = s.chunkBytes + (s.count - s.chunkBytes) := by omega
  rw [State.held, State.held, pumpData_count hi h hchunk, hsplit, ringBytes_add, Nat.add_sub_cancel_left]
  congr 1
  refine List.map_congr_left fun i _ => ?_
  rw [ringRead_of_same (pumpData_cfg h s) (pumpData_resets h s) (pumpData_mem h s)]
  exact ringRead_congr (by simp only [pumpData, Nat.mod_add_mod])

theorem pumpNow_held {s : State} (hi : s.Inv) (h : BitVec 1) :
    ((pumpNow h s).tail = s.tail ∧ (pumpNow h s).held = s.held) ∨
      (s.chunkBytes ≤ s.held.length ∧ s.ringBytes s.chunkBytes ++ (pumpNow h s).held = s.held) := by
  obtain hshort | hchunk := Nat.lt_or_ge s.countC s.chunkBytes
  · left
    rw [pumpNow_of_short h hshort]
    exact ⟨pumpShort_tail s, held_of_sameRing (by simp [SameRing])⟩
  · right
    rw [pumpNow_of_chunk h hchunk, held_of_sameRing (pumpRun_sameRing h s), held_length]
    exact ⟨hchunk.trans hi.r38.b_consumer_view, pumpData_held hi h hchunk⟩

theorem pumpWith_held {s : State} (hi : s.Inv) {k : Nat} (hk : k ≤ s.lagC) (h : BitVec 1) :
    ((pumpWith k h s).tail = s.tail ∧ (pumpWith k h s).held = s.held) ∨
      (s.chunkBytes ≤ s.held.length ∧ s.ringBytes s.chunkBytes ++ (pumpWith k h s).held = s.held) := by
  have hsame : SameRing s (refreshHeadCv k s) := by simp [SameRing]
  have hchunk : (refreshHeadCv k s).chunkBytes = s.chunkBytes := rfl
  have hpump := pumpNow_held (refreshHeadCv_inv hi hk) h
  rwa [hchunk, held_of_sameRing hsame, ringBytes_of_sameRing hsame, refreshHeadCv_tail] at hpump

/-! ## A stream set-up empties the ring (45_pump_control.md R262) -/

theorem held_of_empty {s : State} (h : s.head = s.tail) : s.held = [] := by
  rw [← List.length_eq_zero_iff, held_length, State.count, h, modDist_self]

theorem configureStop_sameRing (s : State) : SameRing s (configureStop s) := by simp [SameRing]

theorem configureStream_held (f : Fmt) (r : Rate) (s : State) :
    (configureStream f r s).held = if s.pst = .closed ∨ s.pst = .fill then [] else s.held := by
  unfold configureStream
  split
  case h_1 hpst => rw [if_pos (.inl hpst)]; exact held_of_empty rfl
  case h_2 hpst => rw [if_pos (.inr hpst)]; exact held_of_empty rfl
  case h_3 hpst => rw [if_neg (by simp [hpst])]; exact held_of_sameRing (raise_sameRing _ _ s)
  case h_4 hpst => rw [if_neg (by simp [hpst])]; exact held_of_sameRing (raise_sameRing _ _ s)

/-! ## What stands outside the block -/

/-- No command writes a parameter, takes an input or counts a reset (20_memory.md R70, R81). -/
theorem exec_sameOutside {i : Instr} {s t : State} (h : exec i s = .next t) : SameOutside s t := by
  have hcase := exec_next_cases h
  cases i with
  | configure f r => rw [show t = _ from hcase]; split <;> simp [SameOutside]
  | pump half => rw [show t = _ from hcase]; split <;> simp [SameOutside]
  | outDone => rw [show t = _ from hcase]; split <;> simp [SameOutside]
  | csrRead a => rw [show t = _ from hcase]; split <;> simp [SameOutside]
  | _ => rw [show t = _ from hcase]; simp [SameOutside]

theorem illegalCommand_sameOutside (x : Txn) (s : State) : SameOutside s (illegalCommand x s) := by
  unfold illegalCommand
  split <;> simp [SameOutside]

end Machine

/-! ## Framed inputs answer (20_memory.md R70, 60_exceptions.md R316) -/

open Machine

/-- A row's check names no framing error (30_encoding.md R94). -/
theorem checkRow_ne_unframed (k : Nat) (ports : List Port) (p : Port) (w : Word) (i : Instr) :
    checkRow k ports p w i ≠ .error .unframed := by
  unfold checkRow
  split
  · simp
  · split <;> simp

/-- The decoder names the framing error of exactly the words with another number of payload bytes (30_encoding.md R90). -/
theorem decode_eq_unframed_iff {p : Port} {w : Word} {b : List Byte} :
    decode p w b = .error .unframed ↔ b.length ≠ payloadLength w := by
  refine ⟨fun h => ?_, decode_eq_unframed⟩
  unfold decode at h
  split at h
  case isTrue hlen => rw [ne_eq, ← hasLength_iff, hlen]; exact Bool.false_ne_true
  split at h
  case h_5 => split at h <;> [exact absurd h (checkRow_ne_unframed _ _ _ _ _); cases h]
  case h_13 => cases h
  all_goals exact absurd h (checkRow_ne_unframed _ _ _ _ _)

namespace Machine

/-- Power-on reset is taken between transactions (70_reset_and_hazards.md R342). -/
theorem step_of_powerOnReset {s : State} {rest : List Input} (hc : s.cfg.legal = true)
    (h : s.input = .powerOnReset :: rest) : step s = .next (powerOn { s with input := rest }) := by
  simp [step, hc, runInput, h]

/-- A framed transaction is a command, which answers, or an illegal word, which raises ILLEGAL. -/
theorem runTxn_answers_next {x : Txn} (hx : x.framed) (s : State) : ∃ t, runTxn x s = .next t := by
  unfold runTxn
  split
  case h_1 i _ => exact exec_answers_next i s
  case h_2 hdec => exact absurd hx (decode_eq_unframed_iff.mp hdec)
  all_goals exact ⟨_, rfl⟩

theorem runTxn_sameOutside {x : Txn} {s t : State} (h : runTxn x s = .next t) : SameOutside s t := by
  obtain ⟨i, -, hexec⟩ | rfl := runTxn_next_cases h
  · exact exec_sameOutside hexec
  · exact illegalCommand_sameOutside x s

/-! ## Duty codes (43_noise_shaper.md R201) -/

/-- The bounds of a clamp whose interval is not empty (00_scope.md R12). -/
theorem clamp_range {lo hi : Int} (h : lo ≤ hi) (v : Int) : lo ≤ clamp v lo hi ∧ clamp v lo hi ≤ hi := by
  unfold clamp
  split <;> [skip; split] <;> omega

/-- Every code Shape gives is a duty code: the level lies in `[-QMAX, QMAX]` and MID is QMAX + 1 (00_scope.md R10). -/
theorem shape_code_range {c : Config} (L : LegalFacts c) (row : List (BitVec 32)) (x : Int) :
    1 ≤ (shape c row x).code ∧ (shape c row x).code ≤ 2 ^ c.pwmBits - 1 := by
  have hmid : c.mid = c.qMax + 1 := by simp [Config.mid, Config.qMax]
  have hmax : 0 ≤ c.qMax := by
    have : 0 < 2 ^ (c.pwmBits - 1) := Nat.two_pow_pos _
    unfold Config.qMax
    omega
  have htop : (2 : Int) ^ c.pwmBits = 2 * c.mid := by
    have hbits : c.pwmBits = c.pwmBits - 1 + 1 := by have := L.pw2; omega
    rw [Config.mid, Nat.cast_pow, Nat.cast_ofNat, ← pow_succ', ← hbits]
  have hlevel := clamp_range (show -c.qMax ≤ c.qMax by omega) (quantRaw c (x - shaperFeedback c row))
  have hcode : (shape c row x).code = clamp (quantRaw c (x - shaperFeedback c row)) (-c.qMax) c.qMax + c.mid := rfl
  omega

theorem shapeFrames_codes_range {c : Config} (L : LegalFacts c) (rows : List (List (BitVec 32))) (fs : List (List Int)) :
    ∀ q ∈ (shapeFrames c rows fs).codes, 1 ≤ q ∧ q ≤ 2 ^ c.pwmBits - 1 := by
  induction fs generalizing rows with
  | nil => simp [shapeFrames]
  | cons f fs ih =>
    intro q hq
    obtain hnow | hrest := List.mem_append.mp hq
    · simp only [shapeFrame, List.map_map, List.mem_map] at hnow
      obtain ⟨k, -, rfl⟩ := hnow
      exact shape_code_range L _ _
    · exact ih _ q hrest

theorem pumpShaped_codes_range {s : State} (L : LegalFacts s.cfg) :
    ∀ q ∈ s.pumpShaped.codes, 1 ≤ q ∧ q ≤ 2 ^ s.cfg.pwmBits - 1 :=
  shapeFrames_codes_range L _ _

/-! ## The elements a PUMP writes (20_memory.md R63, R64) -/

/-- A halfword put together from its two bytes. -/
theorem bytes_append_eq (v : BitVec 16) : v.extractLsb' 8 8 ++ v.extractLsb' 0 8 = v := by
  ext i hlt
  simp only [BitVec.getElem_append, BitVec.getElem_extractLsb']
  split
  · rw [Nat.zero_add, BitVec.getLsbD_eq_getElem]
  · rw [Nat.add_sub_cancel' (by omega), BitVec.getLsbD_eq_getElem]

theorem pumpRun_outBuf (h : BitVec 1) (s : State) :
    (pumpRun h s).outBuf = writeCodes s.outBuf (s.cfg.outAddr h.toNat 0) s.pumpShaped.codes := by
  rw [pumpRun, pumpFill_outBuf, pumpSat_outBuf]
  rfl

/-- Element `i` of the half holds code `i`. -/
theorem pumpRun_outElem {s : State} (h : BitVec 1) {i : Nat} (hlt : i < s.pumpShaped.codes.length) :
    (pumpRun h s).outElem h.toNat i = BitVec.ofInt 16 s.pumpShaped.codes[i] := by
  have haddr : s.cfg.outAddr h.toNat i = s.cfg.outAddr h.toNat 0 + 2 * i := by
    unfold Config.outAddr
    omega
  obtain ⟨hlow, hhigh⟩ := writeCodes_read (m := s.outBuf) (a := s.cfg.outAddr h.toNat 0) hlt
  simp only [State.outElem, State.outRead, pumpRun_outBuf, pumpRun_cfg, haddr, hlow, hhigh, bytes_append_eq]

/-- A duty code fits an element: its upper bits are 0 (20_memory.md R63). -/
theorem duty_code_toNat {c : Config} (L : LegalFacts c) {q : Int} (h1 : 1 ≤ q) (h2 : q ≤ 2 ^ c.pwmBits - 1) :
    ((BitVec.ofInt 16 q).toNat : Int) = q := by
  have hbits : (2 : Int) ^ c.pwmBits ≤ 2 ^ 16 := pow_le_pow_right₀ (by norm_num) L.pw
  rw [BitVec.toNat_ofInt, Int.toNat_of_nonneg (Int.emod_nonneg _ (by norm_num))]
  exact Int.emod_eq_of_lt (by omega) (by norm_num; omega)

theorem pumpRun_outElem_range {s : State} (L : LegalFacts s.cfg) (h : BitVec 1) {i : Nat}
    (hlt : i < s.cfg.outFrames * s.cfg.nch) :
    1 ≤ ((pumpRun h s).outElem h.toNat i).toNat ∧ ((pumpRun h s).outElem h.toNat i).toNat ≤ 2 ^ s.cfg.pwmBits - 1 := by
  rw [← pumpShaped_codes_length L] at hlt
  obtain ⟨h1, h2⟩ := pumpShaped_codes_range L _ (List.getElem_mem hlt)
  have hcode := duty_code_toNat L h1 h2
  have hpow : ((2 ^ s.cfg.pwmBits : Nat) : Int) = 2 ^ s.cfg.pwmBits := by norm_cast
  rw [pumpRun_outElem h hlt]
  omega

/-- The distance on the ring as the Euclidean remainder (00_scope.md R12). -/
theorem modDist_cast {m : Nat} (hm : 0 < m) (a b : Nat) : (modDist m a b : Int) = ((a : Int) - b) % m :=
  Int.toNat_of_nonneg (Int.emod_nonneg _ (by omega))

end Machine

/-! ## The statements -/

/-- Settles O14, the configuration's part of what no command writes. -/
theorem noCommandWritesAParameter : Obligations.NoCommandWritesAParameter := by
  intro i s t h
  obtain ⟨hcfg, -, -⟩ := exec_sameOutside h
  exact hcfg

/-- Settles O9, by the input the step finds. -/
theorem framedInputsNeverStop : Obligations.FramedInputsNeverStop := by
  intro s hc hframed
  match hin : s.input with
  | [] => exact ⟨s, step_of_no_input hc hin, hin, rfl⟩
  | .powerOnReset :: rest => exact ⟨powerOn { s with input := rest }, step_of_powerOnReset hc hin, rfl, rfl⟩
  | .command x :: rest =>
    obtain ⟨t, hrun⟩ := runTxn_answers_next (hframed x (by simp [hin])) { s with input := rest }
    obtain ⟨hcfg, hinput, -⟩ := runTxn_sameOutside hrun
    exact ⟨t, (step_of_command hc hin).trans hrun, hinput, hcfg⟩

/-- Settles O37: a PUMP whose view shows a whole chunk runs, and each element of the half holds a code of the shaper. -/
theorem pumpWritesDutyCodes : Obligations.PumpWritesDutyCodes := by
  intro s hi hopen
  have L := legal_facts hi.legal
  refine ⟨pumpShaped_codes_range L, fun t h hexec hchunk i hlt => ?_⟩
  have hpump : t = if s.pst = .closed then s else pumpNow h (refreshHeadCv (drawView s.lagC s.draws) s) :=
    exec_next_cases hexec
  rw [if_neg hopen] at hpump
  subst hpump
  rw [pumpNow_headCv, ← modDist_cast (rbSize_pos hi), Int.ofNat_le] at hchunk
  rw [pumpNow_of_chunk h hchunk]
  exact pumpRun_outElem_range (s := refreshHeadCv (drawView s.lagC s.draws) s) L h hlt

/-- Settles O18, a clause for each command that changes what the ring holds, and one for all the others. -/
theorem ringIsAByteQueue : Obligations.RingIsAByteQueue := by
  intro s hi
  refine ⟨fun len b t hb h => ?_, fun half t h => ?_, fun f r t h => ?_, fun i t hother h => ?_⟩
  · rw [show t = _ from exec_next_cases h]
    exact putWith_held hi (drawView_le _ _) hb
  · rw [show t = _ from exec_next_cases h]
    split
    case isTrue => exact .inl ⟨rfl, rfl⟩
    case isFalse => exact pumpWith_held hi (drawView_le _ _) half
  · rw [show t = _ from exec_next_cases h]
    by_cases hf : f = .none
    · rw [if_pos hf, if_neg (by simp [hf])]
      exact held_of_sameRing (configureStop_sameRing s)
    · rw [if_neg hf, configureStream_held]
      simp only [ne_eq, hf, not_false_eq_true, true_and]
  · apply held_of_sameRing
    refine exec_sameRing (fun len b hput => ?_) (fun half hpump => ?_) (fun f r hconf => ?_) h
    · simp [hput] at hother
    · simp [hpump] at hother
    · simp [hconf] at hother

end Sys2Proof
end

section
/-! SUPPORT. A command as the parts of its word (30_encoding.md R91, R92), what the decoder reads from a word and a port in
both directions (R90, R94), opcode_table.json row by row, and what an illegal word does (R94, R98); what each command gives
out (R98, 44_feedback.md R231); assembler lines (R103); then the statements of 30_encoding.md. -/

namespace Sys2Proof

open Machine

/-! ## The parts of a command's word (30_encoding.md R91, R92) -/

/-- The opcode column of R92. -/
@[simp] def Instr.opcodeBits : Instr → BitVec 4
  | .nop => 0x0
  | .put _ _ => 0x1
  | .sof => 0x2
  | .fbDone => 0x3
  | .configure _ _ => 0x4
  | .setMute _ => 0x5
  | .setAtten _ => 0x6
  | .pump _ => 0x7
  | .outDone => 0x8
  | .csrRead _ => 0x9
  | .setIe _ => 0xA
  | .ack _ => 0xB

/-- How many low bits of its word a command's operands take (R92). -/
@[simp] def Instr.operandBits : Instr → Nat
  | .put _ _ => 16
  | .configure _ _ => 4
  | .setMute _ | .pump _ => 1
  | .setAtten _ | .csrRead _ | .ack _ => 8
  | .setIe _ => 9
  | .nop | .sof | .fbDone | .outDone => 0

/-- The operand bits themselves (R92). -/
def Instr.operand : (i : Instr) → BitVec i.operandBits
  | .put len _ => len
  | .configure f r => r.code ++ f.code
  | .setMute m => BitVec.ofBool m
  | .setAtten step => step
  | .pump half => half
  | .csrRead addr => addr
  | .setIe mask => mask
  | .ack mask => mask
  | .nop | .sof | .fbDone | .outDone => 0#0

theorem Instr.row_width (i : Instr) : 4 + (28 - i.operandBits) + i.operandBits = 32 := by
  cases i <;> rfl

/-- The encoder's word is opcode, reserved zeros and operand bits (R91). -/
theorem Instr.word_eq_row (i : Instr) :
    i.word = BitVec.cast i.row_width (i.opcodeBits ++ 0#(28 - i.operandBits) ++ i.operand) := by
  cases i with
  | configure f r => cases f <;> cases r <;> rfl
  | _ => rfl

theorem opcode_word (i : Instr) : opcode i.word = i.opcodeBits := by
  rw [i.word_eq_row, opcode_row]

theorem operand_word (i : Instr) : i.word.extractLsb' 0 i.operandBits = i.operand := by
  rw [i.word_eq_row, operand_row]

theorem reserved_word (i : Instr) : (i.word.setWidth 28) >>> i.operandBits = 0 := by
  rw [i.word_eq_row, reserved_row]

/-- A word with a command's opcode and operand bits, and no reserved bit set, is that command's word. -/
theorem word_eq_of_parts {i : Instr} {w : Word} (hop : opcode w = i.opcodeBits)
    (hx : w.extractLsb' 0 i.operandBits = i.operand) (hr : (w.setWidth 28) >>> i.operandBits = 0) : i.word = w := by
  rw [word_of_parts w i.row_width hr, hop, hx, i.word_eq_row]

theorem opcode_toNat (w : Word) : (opcode w).toNat = w.toNat / 2 ^ 28 := by
  rw [opcode, BitVec.extractLsb'_toNat, Nat.shiftRight_eq_div_pow]
  omega

/-! ## Payloads (30_encoding.md R90) -/

theorem payload_eq_nil {w : Word} {b : List Byte} (hframed : b.length = payloadLength w)
    (hop : (opcode w).toNat ≠ 1) : b = [] := by
  rw [payloadLength, if_neg (fun he => hop (by rw [he]; rfl))] at hframed
  exact List.eq_nil_of_length_eq_zero hframed

theorem payloadBytes_eq_of_not_put {i : Instr} {w : Word} {b : List Byte} (hframed : b.length = payloadLength w)
    (hop : opcode w = i.opcodeBits) (hput : i.opcodeBits ≠ 1) : i.payloadBytes = b := by
  have hnil : b = [] := payload_eq_nil hframed fun h => hput (hop ▸ BitVec.eq_of_toNat_eq h)
  cases i with
  | put len payload => exact absurd rfl hput
  | _ => exact hnil.symm

/-! ## Operand fields (00_scope.md R14, 30_encoding.md R97) -/

theorem Fmt.ofCode?_code (f : Fmt) : Fmt.ofCode? f.code = some f := by cases f <;> rfl

theorem Fmt.code_of_ofCode? {v : BitVec 3} {f : Fmt} (h : Fmt.ofCode? v = some f) : f.code = v := by
  revert v; cases f <;> decide

/-- Codes 5 to 7 are reserved (R97). -/
theorem Fmt.isSome_ofCode? (v : BitVec 3) : (Fmt.ofCode? v).isSome = true ↔ v.toNat ≤ 4 := by
  revert v; decide

theorem Rate.ofCode_code (r : Rate) : Rate.ofCode r.code = r := by cases r <;> rfl

theorem Rate.code_ofCode (v : BitVec 1) : (Rate.ofCode v).code = v := by revert v; decide

theorem mute_operand (w : Word) : w.extractLsb' 0 1 = BitVec.ofBool (w.getLsbD 0) := by
  rw [← BitVec.setWidth_eq_extractLsb' (by decide), BitVec.setWidth_one]

/-- The low four bits of a word are CONFIGURE's `rate` field above its `fmt` field (R92). -/
theorem configure_operand (w : Word) : w.extractLsb' 0 4 = w.extractLsb' 3 1 ++ w.extractLsb' 0 3 :=
  (BitVec.extractLsb'_append_extractLsb'_eq_extractLsb' (start₁ := 0) (len₁ := 3) (len₂ := 1) rfl).symm

theorem configure_operand_of_ofCode? {w : Word} {f : Fmt} (h : Fmt.ofCode? (w.extractLsb' 0 3) = some f) :
    w.extractLsb' 0 4 = (Rate.ofCode (w.extractLsb' 3 1)).code ++ f.code := by
  rw [configure_operand, Rate.code_ofCode, Fmt.code_of_ofCode? h]

/-- Each field of CONFIGURE's operand is read back by itself. -/
theorem configure_fields {w : Word} {f : Fmt} {r : Rate} (h : w.extractLsb' 0 4 = r.code ++ f.code) :
    w.extractLsb' 0 3 = f.code ∧ w.extractLsb' 3 1 = r.code := by
  rw [configure_operand] at h
  constructor
  · simpa only [BitVec.extractLsb'_append_eq_right] using congrArg (BitVec.extractLsb' 0 3) h
  · simpa only [BitVec.extractLsb'_append_eq_left] using congrArg (BitVec.extractLsb' 3 1) h

theorem format_field_toNat (w : Word) : (w.extractLsb' 0 3).toNat = w.toNat % 8 := rfl

theorem exists_format_of_le {w : Word} (h : w.toNat % 8 ≤ 4) : ∃ f, Fmt.ofCode? (w.extractLsb' 0 3) = some f :=
  Option.isSome_iff_exists.mp ((Fmt.isSome_ofCode? _).mpr h)

/-! ## What the decoder reads (30_encoding.md R94) -/

/-- The word `w` with payload `b`, on port `p`, is the command `i`, part by part: this is all the decoder looks at. -/
structure ReadsAs (p : Port) (w : Word) (b : List Byte) (i : Instr) : Prop where
  framed      : b.length = payloadLength w
  opcode_eq   : opcode w = i.opcodeBits
  operand_eq  : w.extractLsb' 0 i.operandBits = i.operand
  reserved_eq : (w.setWidth 28) >>> i.operandBits = 0
  port_mem    : p ∈ i.ports
  payload_eq  : i.payloadBytes = b

/-- With opcode, operands and payload of a command, what is left to decide are the reserved bits and the port. -/
theorem decode_eq_checkRow {i : Instr} {p : Port} {w : Word} {b : List Byte} (hframed : b.length = payloadLength w)
    (hop : opcode w = i.opcodeBits) (hx : w.extractLsb' 0 i.operandBits = i.operand) (hb : i.payloadBytes = b) :
    decode p w b = checkRow i.operandBits i.ports p w i := by
  have hlen := (hasLength_iff _ _).mpr hframed
  have hn : (opcode w).toNat = i.opcodeBits.toNat := by rw [hop]
  cases i with
  | put len payload =>
    obtain rfl : len = w.extractLsb' 0 16 := hx.symm
    obtain rfl : payload = b := hb
    simp [decode, hlen, hn, Instr.ports]
  | configure f r =>
    obtain ⟨hf, hr⟩ := configure_fields hx
    simp [decode, hlen, hn, hf, hr, Fmt.ofCode?_code, Rate.ofCode_code, Instr.ports]
  | setMute m =>
    obtain rfl : w.getLsbD 0 = m := BitVec.ofBool_eq_iff_eq.mp ((mute_operand w).symm.trans hx)
    simp [decode, hlen, hn, Instr.ports]
  | _ =>
    simp only [Instr.operandBits, Instr.operand] at hx
    simp [decode, hlen, hn, hx, Instr.ports]

/-- Row by row of `decode`: a row that accepts has read each part of the command it answers. -/
theorem readsAs_of_decode_ok {p : Port} {w : Word} {b : List Byte} {i : Instr} (h : decode p w b = .ok i) :
    ReadsAs p w b i := by
  have hframed := length_of_decode_ok h
  unfold decode at h
  split at h
  case isTrue => cases h
  split at h
  case h_2 hop =>
    obtain ⟨hr, hp, rfl⟩ := checkRow_eq_ok.mp h
    exact ⟨hframed, BitVec.eq_of_toNat_eq hop, rfl, hr, hp, rfl⟩
  case h_5 hop =>
    split at h
    case h_2 => cases h
    case h_1 f hf =>
      obtain ⟨hr, hp, rfl⟩ := checkRow_eq_ok.mp h
      exact ⟨hframed, BitVec.eq_of_toNat_eq hop, configure_operand_of_ofCode? hf, hr, hp,
        (payload_eq_nil hframed (by omega)).symm⟩
  case h_6 hop =>
    obtain ⟨hr, hp, rfl⟩ := checkRow_eq_ok.mp h
    exact ⟨hframed, BitVec.eq_of_toNat_eq hop, mute_operand w, hr, hp, (payload_eq_nil hframed (by omega)).symm⟩
  case h_13 => cases h
  case h_1 hop | h_3 hop | h_4 hop | h_9 hop =>
    obtain ⟨hr, hp, rfl⟩ := checkRow_eq_ok.mp h
    exact ⟨hframed, BitVec.eq_of_toNat_eq hop, BitVec.eq_nil _, hr, hp, (payload_eq_nil hframed (by omega)).symm⟩
  case h_7 hop | h_8 hop | h_10 hop | h_11 hop | h_12 hop =>
    obtain ⟨hr, hp, rfl⟩ := checkRow_eq_ok.mp h
    exact ⟨hframed, BitVec.eq_of_toNat_eq hop, rfl, hr, hp, (payload_eq_nil hframed (by omega)).symm⟩

/-- What decodes to a command is exactly what reads as it. -/
theorem decode_eq_ok_iff {p : Port} {w : Word} {b : List Byte} {i : Instr} :
    decode p w b = .ok i ↔ ReadsAs p w b i := by
  refine ⟨readsAs_of_decode_ok, fun h => ?_⟩
  rw [decode_eq_checkRow h.framed h.opcode_eq h.operand_eq h.payload_eq, checkRow_eq_ok]
  exact ⟨h.reserved_eq, h.port_mem, rfl⟩

/-! ## Encoding, and opcode_table.json row by row -/

theorem encodedOpcode_statement (i : Instr) : Laws.EncodedOpcode.Statement i := by
  cases i with
  | nop => exact Laws.EncodedOpcode.nop
  | put len payload => exact Laws.EncodedOpcode.put len payload
  | sof => exact Laws.EncodedOpcode.sof
  | fbDone => exact Laws.EncodedOpcode.fbDone
  | configure f r => exact Laws.EncodedOpcode.configure f r
  | setMute m => exact Laws.EncodedOpcode.setMute m
  | setAtten step => exact Laws.EncodedOpcode.setAtten step
  | pump half => exact Laws.EncodedOpcode.pump half
  | outDone => exact Laws.EncodedOpcode.outDone
  | csrRead addr => exact Laws.EncodedOpcode.csrRead addr
  | setIe mask => exact Laws.EncodedOpcode.setIe mask
  | ack mask => exact Laws.EncodedOpcode.ack mask

/-- The encoding of a well-formed command reads as that command, on each of its ports. -/
theorem readsAs_word {i : Instr} {p : Port} (hwf : i.wellFormed = true) (hp : p ∈ i.ports) :
    ReadsAs p i.word i.payloadBytes i := by
  obtain ⟨-, hframed⟩ := encodedOpcode_statement i hwf
  exact ⟨hframed, opcode_word i, operand_word i, reserved_word i, hp, rfl⟩

/-- The row of opcode_table.json that lists a command. -/
def Instr.row : Instr → OpcodeRow
  | .nop => opcodeRows[0]
  | .put _ _ => opcodeRows[1]
  | .sof => opcodeRows[2]
  | .fbDone => opcodeRows[3]
  | .configure _ _ => opcodeRows[4]
  | .setMute _ => opcodeRows[5]
  | .setAtten _ => opcodeRows[6]
  | .pump _ => opcodeRows[7]
  | .outDone => opcodeRows[8]
  | .csrRead _ => opcodeRows[9]
  | .setIe _ => opcodeRows[10]
  | .ack _ => opcodeRows[11]

/-- A row's mask is every bit above the operands. The width is a variable `k` so that each case is a closed numeral. -/
theorem row_mask {i : Instr} {k : Nat} (h : i.operandBits = k) : i.row.mask = BitVec.allOnes 32 <<< k := by
  cases i <;> (rw [Instr.operandBits] at h; subst h; rfl)

theorem row_pattern {i : Instr} {o : BitVec 4} (h : i.opcodeBits = o) : i.row.pattern = BitVec.setWidth 32 o <<< 28 := by
  cases i <;> (rw [Instr.opcodeBits] at h; subst h; rfl)

theorem row_ports (i : Instr) : i.row.ports = i.ports := by
  cases i <;> rfl

/-- The converse of `masked_row`: what the masked bits of a word say of its opcode and its reserved bits. -/
theorem parts_of_masked {w : Word} {o : BitVec 4} {k : Nat} (hk : k ≤ 28)
    (h : w &&& (BitVec.allOnes 32 <<< k) = BitVec.setWidth 32 o <<< 28) :
    opcode w = o ∧ (w.setWidth 28) >>> k = 0 := by
  have hbit (j : Nat) (hj : j < 32) (hkj : k ≤ j) : w.getLsbD j = (!decide (j < 28) && o.getLsbD (j - 28)) := by
    have hj' := congrArg (BitVec.getLsbD · j) h
    simp only [BitVec.getLsbD_and, BitVec.getLsbD_shiftLeft, BitVec.getLsbD_allOnes, BitVec.getLsbD_setWidth] at hj'
    simpa [hj, show ¬ j < k by omega, show j - k < 32 by omega, show j - 28 < 32 by omega] using hj'
  constructor
  · ext j hj
    rw [opcode, BitVec.getElem_extractLsb', hbit (28 + j) (by omega) (by omega)]
    simp [hj]
  · apply BitVec.eq_of_getLsbD_eq
    intro j hj
    rw [BitVec.getLsbD_ushiftRight, BitVec.getLsbD_setWidth]
    by_cases hlt : k + j < 28
    · rw [hbit (k + j) (by omega) (by omega)]
      simp [hlt]
    · simp [hlt]

theorem parts_of_fits {i : Instr} {w : Word} (h : i.row.fits w = true) :
    opcode w = i.opcodeBits ∧ (w.setWidth 28) >>> i.operandBits = 0 := by
  have hk : i.operandBits ≤ 28 := by have := i.row_width; omega
  have hmasked : w &&& i.row.mask = i.row.pattern := beq_iff_eq.mp h
  rw [row_mask rfl, row_pattern rfl] at hmasked
  exact parts_of_masked hk hmasked

/-- A framed word of a command's row, on a port of the row, reads as the command with the word's own operands. -/
theorem readsAs_of_row {p : Port} {w : Word} {b : List Byte} (i : Instr) (hfits : i.row.fits w = true)
    (hp : p ∈ i.row.ports) (hframed : b.length = payloadLength w) (hx : w.extractLsb' 0 i.operandBits = i.operand)
    (hb : i.opcodeBits = 1 → i.payloadBytes = b) : ReadsAs p w b i := by
  obtain ⟨hop, hr⟩ := parts_of_fits hfits
  refine ⟨hframed, hop, hx, hr, row_ports i ▸ hp, ?_⟩
  by_cases hput : i.opcodeBits = 1
  · exact hb hput
  · exact payloadBytes_eq_of_not_put hframed hop hput

/-- The four conditions of R94 are enough: each row's command, with the operands its word holds. -/
theorem exists_readsAs_of_legalByTable {t : Txn} (hframed : t.framed) (h : t.legalByTable) :
    ∃ i, ReadsAs t.port t.word t.payload i := by
  obtain ⟨⟨row, hrow, hfits, hp⟩, hfmt⟩ := h
  simp only [opcodeRows, List.mem_cons, List.not_mem_nil, or_false] at hrow
  obtain rfl | rfl | rfl | rfl | rfl | rfl | rfl | rfl | rfl | rfl | rfl | rfl := hrow
  · exact ⟨_, readsAs_of_row .nop hfits hp hframed (BitVec.eq_nil _) nofun⟩
  · exact ⟨_, readsAs_of_row (.put (t.word.extractLsb' 0 16) t.payload) hfits hp hframed rfl fun _ => rfl⟩
  · exact ⟨_, readsAs_of_row .sof hfits hp hframed (BitVec.eq_nil _) nofun⟩
  · exact ⟨_, readsAs_of_row .fbDone hfits hp hframed (BitVec.eq_nil _) nofun⟩
  · obtain ⟨hop, -⟩ := parts_of_fits (i := .configure .none .normal) hfits
    obtain ⟨f, hf⟩ := exists_format_of_le (hfmt (by rw [← opcode_toNat, hop]; rfl))
    exact ⟨_, readsAs_of_row (.configure f (Rate.ofCode (t.word.extractLsb' 3 1))) hfits hp hframed
      (configure_operand_of_ofCode? hf) nofun⟩
  · exact ⟨_, readsAs_of_row (.setMute (t.word.getLsbD 0)) hfits hp hframed (mute_operand _) nofun⟩
  · exact ⟨_, readsAs_of_row (.setAtten (t.word.extractLsb' 0 8)) hfits hp hframed rfl nofun⟩
  · exact ⟨_, readsAs_of_row (.pump (t.word.extractLsb' 0 1)) hfits hp hframed rfl nofun⟩
  · exact ⟨_, readsAs_of_row .outDone hfits hp hframed (BitVec.eq_nil _) nofun⟩
  · exact ⟨_, readsAs_of_row (.csrRead (t.word.extractLsb' 0 8)) hfits hp hframed rfl nofun⟩
  · exact ⟨_, readsAs_of_row (.setIe (t.word.extractLsb' 0 9)) hfits hp hframed rfl nofun⟩
  · exact ⟨_, readsAs_of_row (.ack (t.word.extractLsb' 0 8)) hfits hp hframed rfl nofun⟩

/-- Condition 4 of R94 is necessary. -/
theorem format_le_of_readsAs {p : Port} {w : Word} {b : List Byte} {i : Instr} (h : ReadsAs p w b i)
    (hop : w.toNat / 2 ^ 28 = 4) : w.toNat % 8 ≤ 4 := by
  rw [← opcode_toNat, h.opcode_eq] at hop
  cases i with
  | configure f r =>
    obtain ⟨hf, -⟩ := configure_fields h.operand_eq
    rw [← format_field_toNat, hf, ← Fmt.isSome_ofCode?, Fmt.ofCode?_code]
    rfl
  | _ => simp at hop

/-- Conditions 1 to 3 of R94 are necessary, and the row is the command's own. -/
theorem exists_row_of_readsAs {p : Port} {w : Word} {b : List Byte} {i : Instr} (h : ReadsAs p w b i) :
    ∃ row ∈ opcodeRows, row.fits w = true ∧ p ∈ row.ports ∧ row.mnemonic = i.mnemonic := by
  have hwf := decode_ok_wellFormed (decode_eq_ok_iff.mpr h)
  obtain ⟨⟨row, hrow, hname, hfits, hports⟩, -⟩ := encodedOpcode_statement i hwf
  rw [word_eq_of_parts h.opcode_eq h.operand_eq h.reserved_eq] at hfits
  exact ⟨row, hrow, hfits, hports ▸ h.port_mem, hname⟩

theorem exists_decode_ok_iff_legalByTable {t : Txn} (hframed : t.framed) :
    (∃ i, decode t.port t.word t.payload = .ok i) ↔ t.legalByTable := by
  simp only [decode_eq_ok_iff]
  constructor
  · rintro ⟨i, h⟩
    obtain ⟨row, hrow, hfits, hp, -⟩ := exists_row_of_readsAs h
    exact ⟨⟨row, hrow, hfits, hp⟩, format_le_of_readsAs h⟩
  · exact exists_readsAs_of_legalByTable hframed

namespace Machine

/-! ## Illegal words (30_encoding.md R94, R98) -/

theorem runTxn_of_not_decode_ok {t : Txn} (hframed : t.framed) (h : ¬ ∃ i, decode t.port t.word t.payload = .ok i)
    (s : State) : runTxn t s = .next (illegalCommand t s) := by
  unfold runTxn
  split
  case h_1 i hdec => exact absurd ⟨i, hdec⟩ h
  case h_2 hdec => exact absurd hframed (decode_eq_unframed_iff.mp hdec)
  all_goals rfl

/-- ILLEGAL has no counter (60_exceptions.md R312). -/
theorem raise_illegal (info : Nat) (s : State) : raise .illegal info s = { s with pend := s.pend ||| 0x20 } := rfl

theorem illegalCommand_eq (t : Txn) (s : State) : illegalCommand t s =
    { s with
      pend := s.pend ||| 0x20
      outputs := s.outputs ++
        if t.word.toNat / 2 ^ 28 = 1 ∨ t.word.toNat / 2 ^ 28 = 9 then [.response t.port 0] else [] } := by
  unfold illegalCommand
  rw [opcode_toNat, raise_illegal]
  split
  · rfl
  · rw [List.append_nil]

/-! ## What a command gives out (30_encoding.md R98, 44_feedback.md R231) -/

theorem putStore_responds (n : Nat) (b : List Byte) (s : State) :
    ∃ v, (putStore n b s).outputs = s.outputs ++ [.response .producer v] := by
  unfold putStore
  split <;> exact ⟨_, rfl⟩

theorem putWith_responds (k : Nat) (len : BitVec 16) (b : List Byte) (s : State) :
    ∃ v, (putWith k len b s).outputs = s.outputs ++ [.response .producer v] := by
  obtain ⟨v, hv⟩ := putStore_responds (wholeFrames s.fmt len.toNat) b (putMalformed len.toNat (refreshTailPv k s))
  exact ⟨v, by rw [putWith, hv, putMalformed_outputs, refreshTailPv_outputs]⟩

/-- The send test gives at most one report, after what was given out before. -/
theorem trySend_reports {s ready : State} (h : ready.outputs = s.outputs) :
    ∃ out, (trySend ready).outputs = s.outputs ++ out ∧ (out = [] ∨ ∃ b0 b1 b2, out = [.fbSend b0 b1 b2]) := by
  unfold trySend
  split
  · exact ⟨_, congrArg (· ++ _) h, .inr ⟨_, _, _, rfl⟩⟩
  · exact ⟨[], by rw [h, List.append_nil], .inl rfl⟩

theorem csrRead_responds {a : BitVec 8} {s t : State} (h : exec (.csrRead a) s = .next t) :
    ∃ v, t.outputs = s.outputs ++ [.response .control v] := by
  rw [show t = _ from exec_next_cases h]
  split <;> exact ⟨_, rfl⟩

/-- The eight commands that give nothing out. -/
theorem exec_outputs_of_silent {i : Instr} {s t : State} (hput : ∀ len b, i ≠ .put len b)
    (hread : ∀ a, i ≠ .csrRead a) (hsof : i ≠ .sof) (hdone : i ≠ .fbDone) (h : exec i s = .next t) : t.outputs = s.outputs := by
  have hcase := exec_next_cases h
  cases i with
  | put len b => exact absurd rfl (hput len b)
  | csrRead a => exact absurd rfl (hread a)
  | sof => exact absurd rfl hsof
  | fbDone => exact absurd rfl hdone
  | configure f r => rw [show t = _ from hcase]; split <;> simp
  | pump half => rw [show t = _ from hcase]; split <;> simp
  | outDone => rw [show t = _ from hcase]; split <;> simp
  | _ => simp [show t = _ from hcase]

/-! ## Assembler lines (30_encoding.md R103) -/

/-- A `put` line whose length fits the `len` field is a PUT with exactly its bytes. -/
theorem wellFormed_of_command? {line : AsmLine} {i : Instr} (h : line.command? = some i) : i.wellFormed = true := by
  cases line with
  | put bytes =>
    obtain ⟨hlt, rfl⟩ : bytes.length < 2 ^ 16 ∧ Instr.put (BitVec.ofNat 16 bytes.length) bytes = i := by
      simpa [AsmLine.command?] using h
    simpa [Instr.wellFormed] using (Nat.mod_eq_of_lt hlt).symm
  | setMute n | setAtten n | pump n | csrRead n | setIe n | ack n =>
    obtain ⟨-, hcommand⟩ := Option.ite_none_right_eq_some.mp h
    cases hcommand; rfl
  | start f r =>
    obtain ⟨-, hcommand⟩ := Option.ite_none_left_eq_some.mp h
    cases hcommand; rfl
  | _ => cases h; rfl

theorem assemble_of_command? {line : AsmLine} {i : Instr} (h : line.command? = some i) :
    line.assemble = some (i.word, i.payloadBytes) := by
  rw [AsmLine.assemble, h]; rfl

theorem assemble_start {f : Fmt} (r : Rate) (hf : f ≠ .none) :
    AsmLine.assemble (.start f r) = AsmLine.assemble (.configure f r) := by
  simp [AsmLine.assemble, AsmLine.command?, hf]

theorem assemble_read (n : CsrName) : AsmLine.assemble (.read n) = AsmLine.assemble (.csrRead n.addr.toNat) := by
  have hlt : n.addr.toNat < 256 := n.addr.isLt
  simp [AsmLine.assemble, AsmLine.command?, hlt]

end Machine

/-! ## The statements -/

/-- Settles O1: the encoding reads as its command. -/
theorem decodeReadsBackEveryCommand : Obligations.DecodeReadsBackEveryCommand :=
  fun _ _ hwf hp => decode_eq_ok_iff.mpr (readsAs_word hwf hp)

/-- Settles O2: the parts the decoder has read make up the word again. -/
theorem encodeReadsBackEveryLegalWord : Obligations.EncodeReadsBackEveryLegalWord := by
  intro p w b i h
  have hread := decode_eq_ok_iff.mp h
  exact ⟨decode_ok_wellFormed h, hread.port_mem,
    word_eq_of_parts hread.opcode_eq hread.operand_eq hread.reserved_eq, hread.payload_eq⟩

/-- Settles O3. -/
theorem decoderAcceptsTheOpcodeTable : Obligations.DecoderAcceptsTheOpcodeTable := fun _ hframed =>
  ⟨exists_decode_ok_iff_legalByTable hframed, fun _ h => exists_row_of_readsAs (decode_eq_ok_iff.mp h)⟩

/-- Settles O4, by whether the decoder answers a command. -/
theorem illegalCommandOnlyRaisesIllegal : Obligations.IllegalCommandOnlyRaisesIllegal := by
  intro s t rest hc hframed hin
  rw [step_of_command hc hin, ← exists_decode_ok_iff_legalByTable hframed]
  refine ⟨fun ⟨i, hdec⟩ => ⟨i, hdec, runTxn_of_decode_ok hdec _⟩, fun hillegal => ?_⟩
  rw [runTxn_of_not_decode_ok hframed hillegal, illegalCommand_eq]

/-- Settles O54: the four commands that give something out, then all the others. -/
theorem outputsOfEachCommand : Obligations.OutputsOfEachCommand := by
  intro i s t h
  have hcase := exec_next_cases h
  cases i with
  | put len b =>
    obtain ⟨v, hv⟩ := putWith_responds (drawView s.lagP s.draws) len b s
    exact ⟨_, hcase ▸ hv, by simp⟩
  | csrRead a =>
    obtain ⟨v, hv⟩ := csrRead_responds h
    exact ⟨_, hv, by simp⟩
  | sof =>
    obtain ⟨out, hout, hreport⟩ := trySend_reports (s := s)
      (ready := if s.nextSofcnt = 0 then reportBoundary (countTick s) else countTick s) (by split <;> simp)
    exact ⟨out, hcase ▸ hout, by simp, by simp, fun _ => hreport, by simp⟩
  | fbDone =>
    obtain ⟨out, hout, hreport⟩ := trySend_reports (s := s) (ready := { s with epFree := true }) rfl
    exact ⟨out, hcase ▸ hout, by simp, by simp, fun _ => hreport, by simp⟩
  | _ =>
    have hsilent := exec_outputs_of_silent (by simp) (by simp) (by simp) (by simp) h
    exact ⟨[], by rw [hsilent, List.append_nil], by simp⟩

/-- Settles O5, by running the decoder on each word. -/
theorem specWordsDecode : Obligations.SpecWordsDecode := by
  unfold Obligations.SpecWordsDecode
  decide

/-- Settles O6: the lines by the round trip of their command, the fixed words and addresses by running the assembler. -/
theorem assembledLinesDecode : Obligations.AssembledLinesDecode := by
  refine ⟨fun line i p hline hp => ?_, rfl, rfl, rfl, rfl, fun f r => assemble_start r, assemble_read, rfl, rfl⟩
  exact ⟨i.word, i.payloadBytes, assemble_of_command? hline,
    decode_eq_ok_iff.mpr (readsAs_word (wellFormed_of_command? hline) hp)⟩

end Sys2Proof
end

section
/-! SUPPORT. The exact count and the held bytes (40_ring_buffer.md R120), a PUT's response word (30_encoding.md R98), the
state that PUT's storing step finds, and a PUT as one equation for each of its two outcomes (40_ring_buffer.md R124, R125);
then the statements of 40_ring_buffer.md. -/

namespace Sys2Proof

namespace Machine

/-! ## The exact count and the held bytes (40_ring_buffer.md R120) -/

theorem modDist_eq_zero_iff {m a b : Nat} (ha : a < m) (hb : b < m) : modDist m a b = 0 ↔ a = b := by
  rw [modDist_eq ha hb]
  split <;> omega

theorem rbSize_cast (c : Config) : (c.rbSize : Int) = 2 ^ c.rbLog2 := by simp [Config.rbSize]

theorem space_add_count {s : State} (hi : s.Inv) : s.space + s.count = s.cfg.rbSize - 1 :=
  Nat.sub_add_cancel hi.r38.a_not_overfull

theorem spaceP_cast {s : State} (hi : s.Inv) :
    (s.spaceP : Int) = s.cfg.rbSize - 1 - (modDist s.cfg.rbSize s.head s.tailPv : Nat) := by
  have hdist := modDist_lt s.head s.tailPv (rbSize_pos hi)
  unfold State.spaceP
  omega

theorem held_getElem {s : State} {i : Nat} (h : i < s.held.length) : s.held[i] = s.ringRead (s.tail + i) := by
  simp [State.held, State.ringBytes]

/-- Where `t` holds what `s` held and perhaps more behind it, every byte `s` held is in its place. -/
theorem ringRead_of_held_append {s t : State} {added : List Byte} (htail : t.tail = s.tail)
    (hheld : t.held = s.held ++ added) {i : Nat} (hlt : i < s.count) :
    t.ringRead (s.tail + i) = s.ringRead (s.tail + i) := by
  have hs : i < s.held.length := by rwa [held_length]
  have ht : i < t.held.length := by rw [hheld, List.length_append]; omega
  calc t.ringRead (s.tail + i) = t.held[i] := by rw [held_getElem ht, htail]
    _ = s.held[i] := by simp only [hheld, List.getElem_append_left hs]
    _ = s.ringRead (s.tail + i) := held_getElem hs

/-! ## The response word (30_encoding.md R98) -/

theorem putResponse_eq_ofNat (accepted : Bool) {space : Nat} (h : space < 2 ^ 16) :
    putResponse accepted space = BitVec.ofNat 32 ((if accepted then 2 ^ 31 else 0) + space) := by
  apply BitVec.eq_of_toNat_eq
  change (BitVec.ofBool accepted ++ 0#15 ++ BitVec.ofNat 16 space : BitVec (1 + 15 + 16)).toNat = _
  rw [BitVec.toNat_append, BitVec.toNat_append, ← Nat.shiftLeft_add_eq_or_of_lt (BitVec.isLt _)]
  cases accepted <;> simp <;> omega

/-- The space fits the response's 16 bits (00_scope.md R8). -/
theorem space_lt {s : State} (hi : s.Inv) : s.space < 2 ^ 16 := by
  have hsum := space_add_count hi
  have hsize := rbSize_le hi
  have hpos := rbSize_pos hi
  omega

/-! ## PUT's first two steps (40_ring_buffer.md R124) -/

/-- The state that PUT's steps 3 and 4 find: the view has advanced by `k` and a malformed length is reported. -/
def putReady (k : Nat) (len : BitVec 16) (s : State) : State := putMalformed len.toNat (refreshTailPv k s)

theorem putReady_eq (k : Nat) (len : BitVec 16) (s : State) :
    putReady k len s =
      if s.putIsMalformed len then raise .malformed len.toNat (refreshTailPv k s) else refreshTailPv k s := rfl

theorem putWith_eq_putStore (k : Nat) (len : BitVec 16) (b : List Byte) (s : State) :
    putWith k len b s = putStore (s.putBytes len) b (putReady k len s) := rfl

section
variable (k : Nat) (len : BitVec 16) (s : State)

@[simp] theorem putReady_cfg : (putReady k len s).cfg = s.cfg := by simp [putReady]
@[simp] theorem putReady_mem : (putReady k len s).mem = s.mem := by simp [putReady]
@[simp] theorem putReady_head : (putReady k len s).head = s.head := by simp [putReady]
@[simp] theorem putReady_tailPv : (putReady k len s).tailPv = (s.tailPv + k) % s.cfg.rbSize := by
  simp [putReady, refreshTailPv]
@[simp] theorem putReady_delta : (putReady k len s).delta = s.delta := by simp [putReady]
@[simp] theorem putReady_outputs : (putReady k len s).outputs = s.outputs := by simp [putReady]
@[simp] theorem putReady_cntOverflow : (putReady k len s).cntOverflow = s.cntOverflow := by simp [putReady]

theorem putReady_ringRead (slot : Nat) : (putReady k len s).ringRead slot = s.ringRead slot :=
  ringRead_of_same (by simp [putReady]) (by simp [putReady]) (by simp [putReady]) slot

theorem putReady_pend : (putReady k len s).pend = if s.putIsMalformed len then s.pend ||| 0x04 else s.pend := by
  rw [putReady_eq, apply_ite State.pend]
  rfl

theorem putReady_cntMalformed :
    CountedUp s.cntMalformed (putReady k len s).cntMalformed (if s.putIsMalformed len then 1 else 0) := by
  have hreg := s.cntMalformed.isLt
  rw [putReady_eq]
  split
  · exact addSat32_toNat _ 1
  · simp only [CountedUp, refreshTailPv_cntMalformed]
    omega

end

theorem putReady_inv {s : State} (hi : s.Inv) {k : Nat} (hk : k ≤ s.lagP) (len : BitVec 16) : (putReady k len s).Inv :=
  putMalformed_inv (refreshTailPv_inv hi hk) _

theorem putReady_spaceP {s : State} (hi : s.Inv) {k : Nat} (hk : k ≤ s.lagP) (len : BitVec 16) :
    (putReady k len s).spaceP = s.spaceP + k := by
  rw [← spaceP_refresh hi hk]
  simp [State.spaceP, putReady]

/-! ## The two outcomes of a PUT (40_ring_buffer.md R124, R125) -/

theorem putBytes_le (s : State) (len : BitVec 16) : s.putBytes len ≤ len.toNat := wholeFrames_le s.fmt len.toNat

/-- The slots from the packet's end round to `head` keep their bytes (40_ring_buffer.md R122). -/
theorem storePacket_ringRead_kept {s : State} (hi : s.Inv) {n left slot : Nat} {b : List Byte} (hslot : slot < s.cfg.rbSize)
    (hfar : n ≤ modDist s.cfg.rbSize slot s.head) : (storePacket n left b s).ringRead slot = s.ringRead slot := by
  have hdist := modDist_lt slot s.head (rbSize_pos hi)
  have hlen : (b.take n).length ≤ n := List.length_take_le n b
  have hapart : ∀ j < (b.take n).length, (s.head + j) % s.cfg.rbSize ≠ slot % s.cfg.rbSize := fun j hj heq => by
    have hahead : modDist s.cfg.rbSize slot s.head = j := by
      rw [← Nat.mod_eq_of_lt hslot, ← heq, modDist_ahead hi.head_lt (by omega)]
    omega
  simp only [State.ringRead, storePacket, ringWrites_read_other hapart]

section
variable {s : State} (hi : s.Inv) {k : Nat} (hk : k ≤ s.lagP) {len : BitVec 16} {b : List Byte}
include hi hk

theorem putWith_of_fits (hfits : s.putBytes len ≤ s.spaceP + k) :
    putWith k len b s = respond .producer (putResponse true (s.spaceP + k - s.putBytes len))
      (storePacket (s.putBytes len) (s.spaceP + k - s.putBytes len) b (putReady k len s)) := by
  rw [putWith_eq_putStore, putStore, putReady_spaceP hi hk, if_neg (Nat.not_lt.mpr hfits)]

theorem putWith_of_short (hshort : s.spaceP + k < s.putBytes len) :
    putWith k len b s = respond .producer (putResponse false (s.spaceP + k))
      (raise .overflow (s.putBytes len) (putReady k len s)) := by
  rw [putWith_eq_putStore, putStore, putReady_spaceP hi hk, if_pos hshort]

/-- A PUT that fits the space in view does all that R124 lists for an accepted packet. -/
theorem putWith_accepted (hb : b.length = len.toNat) (hfits : s.putBytes len ≤ s.spaceP + k) :
    PutAccepted s (putWith k len b s) k len b := by
  have hready := putReady_inv hi hk len
  have hspace := spaceP_add_lagP hi
  have hfit16 := space_lt hi
  have hle := putBytes_le s len
  have hstored : s.putBytes len ≤ (putReady k len s).spaceP := by rwa [putReady_spaceP hi hk]
  rw [putWith_of_fits hi hk hfits]
  constructor
  case view => simp
  case head => simp [storePacket]
  case stored =>
    intro i hlt
    have htake : i < (b.take (s.putBytes len)).length := by rw [List.length_take]; omega
    have hread := storePacket_ringRead_stored (left := s.spaceP + k - s.putBytes len) hready hstored htake
    rw [putReady_head] at hread
    rw [ringRead_of_same (respond_cfg _ _ _) (respond_resets _ _ _) (respond_mem _ _ _), hread, List.getElem_take,
      List.getElem?_eq_getElem]
  case kept =>
    intro slot hslot hfar
    rw [ringRead_of_same (respond_cfg _ _ _) (respond_resets _ _ _) (respond_mem _ _ _),
      storePacket_ringRead_kept hready (by simpa using hslot) (by simpa using hfar), putReady_ringRead]
  case delta => simpa [CountedUp, storePacket] using addSat32_toNat s.delta _
  case response =>
    rw [respond_outputs, putResponse_eq_ofNat true (by omega)]
    simp
  case pend => exact putReady_pend k len s
  case malformed => exact putReady_cntMalformed k len s
  case overflow => exact putReady_cntOverflow k len s

/-- A PUT that does not fit the space in view stores nothing and does all that R125 lists for a rejected packet. -/
theorem putWith_rejected (hshort : s.spaceP + k < s.putBytes len) :
    PutRejected s (putWith k len b s) k len ∧ (putWith k len b s).mem = s.mem := by
  have hspace := spaceP_add_lagP hi
  have hfit16 := space_lt hi
  rw [putWith_of_short hi hk hshort]
  refine ⟨?_, by simp⟩
  constructor
  case view => simp
  case head => simp
  case kept =>
    intro slot
    rw [← putReady_ringRead k len s]
    exact ringRead_of_same rfl rfl rfl slot
  case delta => simp
  case response =>
    rw [respond_outputs, putResponse_eq_ofNat false (by omega)]
    simp
  case pend =>
    rw [respond_pend, raise_pend, putReady_pend, apply_ite (· ||| Event.overflow.bit), BitVec.or_assoc]
    rfl
  case malformed => exact putReady_cntMalformed k len s
  case overflow => simpa [CountedUp] using addSat32_toNat s.cntOverflow 1

end

/-- What no PUT writes, accepted or rejected (40_ring_buffer.md R124). -/
theorem putWith_frame (k : Nat) (len : BitVec 16) (b : List Byte) (s : State) :
    let t := putWith k len b s
    t.tail = s.tail ∧ t.headCv = s.headCv ∧ SameControl s t ∧ SameFilter s t ∧ SameReport s t ∧ SameOutside s t ∧
      t.ie = s.ie ∧ t.cntUnderrun = s.cntUnderrun ∧ t.cntSat = s.cntSat ∧ t.cntFblost = s.cntFblost ∧
      ∀ a, t.outRead a = s.outRead a := by
  have hout := outRead_of_same (putWith_resets k len b s) (putWith_outBuf k len b s)
  simp [hout, SameControl, SameFilter, SameReport, SameOutside]

/-- A PUT adds to the count what it stores, and its response says whether it stored (40_ring_buffer.md R120, R124). -/
theorem putWith_count {s : State} (hi : s.Inv) {k : Nat} (hk : k ≤ s.lagP) {len : BitVec 16} {b : List Byte}
    (hb : b.length = len.toNat) :
    ∃ v : Word, (putWith k len b s).outputs = s.outputs ++ [.response .producer v] ∧
      (putWith k len b s).count = s.count + (if v.msb then s.putBytes len else 0) := by
  obtain ⟨v, hv, hheld⟩ := putWith_held hi hk hb
  have hle := putBytes_le s len
  refine ⟨v, hv, ?_⟩
  rw [← held_length, hheld, List.length_append, held_length, apply_ite List.length, List.length_nil,
    List.length_take_of_le (by omega)]

end Machine

open Machine

/-! ## The statements -/

/-- Settles O16, by whether the packet fits the space that the draw taken shows. -/
theorem putIsAllOrNothing : Obligations.PutIsAllOrNothing := by
  intro s len b hi hb
  have hk : drawView s.lagP s.draws ≤ s.lagP := drawView_le _ _
  exact ⟨_, hk, _, rfl, putWith_accepted hi hk hb, putWith_rejected hi hk, putWith_frame _ len b s⟩

/-- Settles O15: what fits the space in view fits whatever more the draw shows. -/
theorem putStoresAFittingPacket : Obligations.PutStoresAFittingPacket := by
  intro s len b hi hb hfits
  obtain ⟨k, hk, t, hexec, haccepted, -, hframe⟩ := putIsAllOrNothing s len b hi hb
  exact ⟨k, hk, t, hexec, haccepted (hfits.trans (Nat.le_add_right _ _)), hframe⟩

/-- Settles O17: the count and the views from the distances on the ring, the PUT from the bytes it leaves held. -/
theorem putNeverOverwritesHeldBytes : Obligations.PutNeverOverwritesHeldBytes := by
  intro s hi
  have hsize := rbSize_pos hi
  have hspace := spaceP_add_lagP hi
  have hcast := modDist_cast hsize
  rw [rbSize_cast] at hcast
  refine ⟨hcast _ _, space_add_count hi, ?_, hcast _ _, by omega, hi.r38.b_consumer_view, fun len b t hb hexec => ?_⟩
  · rw [spaceP_cast hi, rbSize_cast, hcast]
  · have hk : drawView s.lagP s.draws ≤ s.lagP := drawView_le _ _
    obtain rfl : t = putWith (drawView s.lagP s.draws) len b s := exec_next_cases hexec
    obtain ⟨v, -, hheld⟩ := putWith_held hi hk hb
    have hinv := putWith_inv hi hk hb
    refine ⟨putWith_count hi hk hb, ?_, (modDist_eq_zero_iff hinv.head_lt hinv.tail_lt).symm,
      fun i hlt => ringRead_of_held_append (putWith_tail _ len b s) hheld hlt⟩
    rw [← putWith_cfg (drawView s.lagP s.draws) len b s]
    exact hinv.r38.a_not_overfull

end Sys2Proof
end

section
/-! SUPPORT. The reframer stage of one PUMP (41_reframer.md): the range of a decoded sample, an F32 sample as the exact
truncation of its value, whole frames, the gain as a floor that is monotonic in `g`, and the frames of one pump; then zero
input through the upsampler and the noise shaper (42_upsampler.md R181, 43_noise_shaper.md R200); then the statements. -/

namespace Sys2Proof

namespace Machine

/-! ## The range of a decoded sample (41_reframer.md R150, R151) -/

/-- An internal sample: an integer of 32 bits (41_reframer.md R150). -/
abbrev IsSample (x : Int) : Prop := -2 ^ 31 ≤ x ∧ x ≤ 2 ^ 31 - 1

theorem littleEndian_lt (b : List Byte) : littleEndian b < 2 ^ (8 * b.length) := by
  induction b with
  | nil => simp [littleEndian]
  | cons b bs ih =>
    have hbyte := b.isLt
    have hpow : 2 ^ (8 * (b :: bs).length) = 256 * 2 ^ (8 * bs.length) := by
      rw [List.length_cons, Nat.mul_succ, pow_add, Nat.mul_comm]; rfl
    rw [littleEndian, hpow]
    omega

theorem sext_range {n v : Nat} (hn : 0 < n) (hv : v < 2 ^ n) : -2 ^ (n - 1) ≤ sext n v ∧ sext n v < 2 ^ (n - 1) := by
  have htoInt : sext n v = (BitVec.ofNat n v).toInt := by
    rw [← sext_toNat hn, BitVec.toNat_ofNat, Nat.mod_eq_of_lt hv]
  rw [htoInt]
  exact ⟨BitVec.le_toInt _, BitVec.toInt_lt⟩

theorem f32ToQ31_range (u : Nat) : IsSample (f32ToQ31 u) := by
  unfold f32ToQ31 IsSample
  dsimp only
  split
  · decide
  · split
    · decide
    · split
      · decide
      · exact sat32_range _

/-- Every format decodes into the sample range (41_reframer.md R150, R151). -/
theorem decodeSample_range {f : Fmt} {b : List Byte} (hb : b.length = f.bytesPerSample) : IsSample (decodeSample f b) := by
  have hword := littleEndian_lt b
  rw [hb] at hword
  cases f with
  | none => exact (by decide : IsSample 0)
  | s16 =>
    obtain ⟨hlow, hhigh⟩ := sext_range (n := 16) (by decide) hword
    rw [decodeSample]
    omega
  | s24 =>
    obtain ⟨hlow, hhigh⟩ := sext_range (n := 24) (by decide) hword
    rw [decodeSample]
    omega
  | s32 =>
    obtain ⟨hlow, hhigh⟩ := sext_range (n := 32) (by decide) hword
    rw [decodeSample]
    omega
  | f32 => exact f32ToQ31_range _

/-! ## F32 samples (41_reframer.md R153, R154) -/

/-- The magnitude of a finite binary32 value with exponent field `expo` and fraction field `frac` (R153). -/
def f32Value (expo frac : Nat) : ℚ :=
  if expo = 0 then (frac : ℚ) * 2 ^ (-149 : ℤ) else ((2 ^ 23 + frac : ℕ) : ℚ) * 2 ^ ((expo : ℤ) - 150)

/-- A shift of either sign on natural numbers is the floor of the exact product. -/
theorem floor_mul_zpow (m : Nat) (sh : Int) :
    ⌊(m : ℚ) * 2 ^ sh⌋ = ((if 0 ≤ sh then m * 2 ^ sh.toNat else m / 2 ^ (-sh).toNat : Nat) : Int) := by
  split
  case isTrue hleft =>
    obtain ⟨k, rfl⟩ := Int.eq_ofNat_of_zero_le hleft
    rw [zpow_natCast, Int.toNat_natCast]
    exact_mod_cast Int.floor_natCast (R := ℚ) (m * 2 ^ k)
  case isFalse hright =>
    obtain ⟨k, hk⟩ := Int.eq_ofNat_of_zero_le (show 0 ≤ -sh by omega)
    obtain rfl : sh = -(k : Int) := by omega
    rw [zpow_neg, zpow_natCast, ← div_eq_mul_inv, neg_neg, Int.toNat_natCast]
    exact_mod_cast Rat.floor_natCast_div_natCast m (2 ^ k)

/-- The model's shift by `e + 31` truncates the value scaled by `2^31` (R154). -/
theorem f32Magnitude_eq_floor (expo frac : Nat) : (f32Magnitude expo frac : Int) = ⌊f32Value expo frac * 2 ^ 31⌋ := by
  have hscale (m : Nat) (e : Int) : (m : ℚ) * 2 ^ e * 2 ^ 31 = (m : ℚ) * 2 ^ (e + 31) := by
    rw [mul_assoc, zpow_add₀ (by norm_num)]
    norm_cast
  unfold f32Magnitude f32Value
  split
  case isTrue hsub => rw [hscale, floor_mul_zpow]; rfl
  case isFalse hnormal => rw [hscale, floor_mul_zpow, show (expo : Int) - 150 + 31 = expo - 119 by omega]

/-- The three fields of a binary32 pattern (R153). -/
theorem f32_fields (sgn : Bool) (e : BitVec 8) (f : BitVec 23) :
    (BitVec.ofBool sgn ++ e ++ f).toNat / 2 ^ 31 % 2 = sgn.toNat ∧
    (BitVec.ofBool sgn ++ e ++ f).toNat / 2 ^ 23 % 2 ^ 8 = e.toNat ∧
    (BitVec.ofBool sgn ++ e ++ f).toNat % 2 ^ 23 = f.toNat := by
  have hu : (BitVec.ofBool sgn ++ e ++ f).toNat = (sgn.toNat * 2 ^ 8 + e.toNat) * 2 ^ 23 + f.toNat := by
    rw [BitVec.toNat_append, BitVec.toNat_append, ← Nat.shiftLeft_add_eq_or_of_lt f.isLt,
      ← Nat.shiftLeft_add_eq_or_of_lt e.isLt, Nat.shiftLeft_eq, Nat.shiftLeft_eq, BitVec.toNat_ofBool]
  have hs := sgn.toNat_lt
  have he := e.isLt
  have hf := f.isLt
  omega

/-- F32ToQ31 by the fields of its pattern (R154). -/
theorem f32ToQ31_fields (sgn : Bool) (e : BitVec 8) (f : BitVec 23) :
    f32ToQ31 (BitVec.ofBool sgn ++ e ++ f).toNat =
      if e = 255 then (if f ≠ 0 then 0 else if sgn then -2147483648 else 2147483647)
      else sat 32 ((if sgn then -1 else 1) * f32Magnitude e.toNat f.toNat) := by
  obtain ⟨hs, he, hf⟩ := f32_fields sgn e f
  have hexpo : e.toNat = 255 ↔ e = 255 := by rw [← BitVec.toNat_inj]; rfl
  have hfrac : f.toNat = 0 ↔ f = 0 := by rw [← BitVec.toNat_inj]; rfl
  simp only [f32ToQ31, hs, he, hf, hexpo, hfrac, ne_eq]
  by_cases hmax : e = 255
  · by_cases hinf : f = 0
    · cases sgn <;> simp [hmax, hinf]
    · simp only [hmax, hinf, not_false_eq_true, and_self, if_true]
  · simp only [hmax, false_and, if_false]
    cases sgn <;> rfl

/-! ## Whole frames (41_reframer.md R152, R155) -/

theorem frameBytes_eq (f : Fmt) : f.frameBytes = f.bytesPerSample + f.bytesPerSample := two_mul _

theorem frameBytes_pos {f : Fmt} (hf : f ≠ .none) : 0 < f.frameBytes := by
  cases f with
  | none => exact absurd rfl hf
  | _ => decide

theorem reframe_eq_map {f : Fmt} (hf : f ≠ .none) (bytes : List Byte) :
    reframe f bytes = (List.range (bytes.length / f.frameBytes)).map fun i => decodeFrame f (bytes.drop (i * f.frameBytes)) :=
  if_neg hf

theorem reframe_of_short {f : Fmt} {bytes : List Byte} (h : bytes.length < f.frameBytes) : reframe f bytes = [] := by
  unfold reframe
  split
  · rfl
  · rw [Nat.div_eq_of_lt h]; rfl

/-- What follows a frame's bytes does not change it. -/
theorem decodeFrame_append {f : Fmt} {x : List Byte} (hx : x.length = f.frameBytes) (bytes : List Byte) :
    decodeFrame f (x ++ bytes) = (decodeSample f (x.take f.bytesPerSample), decodeSample f (x.drop f.bytesPerSample)) := by
  rw [frameBytes_eq] at hx
  have hright : (x.drop f.bytesPerSample).length = f.bytesPerSample := by rw [List.length_drop]; omega
  rw [decodeFrame, List.take_append_of_le_length (by omega), List.drop_append_of_le_length (by omega),
    List.take_left' hright]

/-- Reframe takes one frame from the front (R155). -/
theorem reframe_append {f : Fmt} (hf : f ≠ .none) {x : List Byte} (hx : x.length = f.frameBytes) (bytes : List Byte) :
    reframe f (x ++ bytes) =
      (decodeSample f (x.take f.bytesPerSample), decodeSample f (x.drop f.bytesPerSample)) :: reframe f bytes := by
  have hcount : (x ++ bytes).length / f.frameBytes = bytes.length / f.frameBytes + 1 := by
    rw [List.length_append, hx, Nat.add_div_left _ (frameBytes_pos hf)]
  have hdrop (i : Nat) : (x ++ bytes).drop ((i + 1) * f.frameBytes) = bytes.drop (i * f.frameBytes) := by
    rw [Nat.succ_mul, Nat.add_comm, ← hx, List.drop_length_add_append]
  rw [reframe_eq_map hf, reframe_eq_map hf, hcount, List.range_succ_eq_map, List.map_cons, List.map_map, Nat.zero_mul,
    List.drop_zero, decodeFrame_append hx]
  simp only [Function.comp_def, Nat.succ_eq_add_one, hdrop]

/-! ## Gain (41_reframer.md R160 to R162) -/

/-- Gain is the floor that R160 names. -/
theorem gain_floorOf (x : Int) (g : Nat) : FloorOf (x * g) 15 (gain x g) := floorShift_floorOf _ _

@[simp] theorem gain_zero (x : Int) : gain x 0 = 0 := by simp [gain, floorShift]

@[simp] theorem gain_unity (x : Int) : gain x 32768 = x := Int.mul_ediv_cancel x (by norm_num)

theorem gain_le_of_nonneg {x : Int} (hx : 0 ≤ x) {g g' : Nat} (h : g' ≤ g) : gain x g' ≤ gain x g :=
  Int.ediv_le_ediv (by norm_num) (mul_le_mul_of_nonneg_left (by exact_mod_cast h) hx)

theorem gain_le_of_nonpos {x : Int} (hx : x ≤ 0) {g g' : Nat} (h : g' ≤ g) : gain x g ≤ gain x g' :=
  Int.ediv_le_ediv (by norm_num) (mul_le_mul_of_nonpos_left (by exact_mod_cast h) hx)

/-- A smaller gain never gives a larger magnitude (R162): from `gain x 0 = 0`, the gained sample moves away from 0 on the
side of `x` as the gain grows. -/
theorem abs_gain_le_abs_gain (x : Int) {g g' : Nat} (h : g' ≤ g) : |gain x g'| ≤ |gain x g| := by
  have hzero := gain_zero x
  obtain hx | hx := le_total 0 x
  · have hg' := gain_le_of_nonneg hx g'.zero_le
    have hg := gain_le_of_nonneg hx h
    rw [abs_of_nonneg (by omega), abs_of_nonneg (by omega)]
    exact hg
  · have hg' := gain_le_of_nonpos hx g'.zero_le
    have hg := gain_le_of_nonpos hx h
    rw [abs_of_nonpos (by omega), abs_of_nonpos (by omega)]
    omega

/-- A legal gain never enlarges a magnitude (R160): the gain 32768 is exact. -/
theorem abs_gain_le (x : Int) {g : Nat} (hg : g ≤ 32768) : |gain x g| ≤ |x| := by
  simpa using abs_gain_le_abs_gain x hg

/-- A legal gain keeps the sample range: the gained sample lies between 0 and `x` (R160). -/
theorem gain_range {x : Int} (hx : IsSample x) {g : Nat} (hg : g ≤ 32768) : IsSample (gain x g) := by
  have hzero := gain_zero x
  have hunity := gain_unity x
  obtain hsign | hsign := le_total 0 x
  · have hlow := gain_le_of_nonneg hsign g.zero_le
    have hhigh := gain_le_of_nonneg hsign hg
    omega
  · have hhigh := gain_le_of_nonpos hsign g.zero_le
    have hlow := gain_le_of_nonpos hsign hg
    omega

/-! ## The frames of one pump (41_reframer.md R165, R166) -/

/-- The sample of wire frame `i` from `tail` on one side of it, 0 for left and 1 for right (R152). -/
def State.wireSample (s : State) (i side : Nat) : Int :=
  decodeSample s.fmt ((List.range s.fmt.bytesPerSample).map fun j =>
    s.ringRead (s.tail + (i * s.fmt.frameBytes + side * s.fmt.bytesPerSample + j)))

theorem wireSample_range (s : State) (i side : Nat) : IsSample (s.wireSample i side) :=
  decodeSample_range (by simp)

/-- A part of the bytes from `tail` (40_ring_buffer.md R123). -/
theorem ringBytes_drop_take (s : State) {n a k : Nat} (h : a + k ≤ n) :
    ((s.ringBytes n).drop a).take k = (List.range k).map fun j => s.ringRead (s.tail + (a + j)) := by
  obtain ⟨rest, rfl⟩ := Nat.exists_eq_add_of_le h
  rw [ringBytes_add, List.drop_append_of_le_length (by simp), List.take_append_of_le_length (by simp),
    ringBytes_add, List.drop_left' (ringBytes_length s a), List.take_of_length_le (by simp)]
  simp only [Nat.add_assoc]

theorem reframe_length {f : Fmt} (hf : f ≠ .none) (bytes : List Byte) :
    (reframe f bytes).length = bytes.length / f.frameBytes := by
  simp [reframe_eq_map hf]

/-- Outside CLOSED a stream has a format (10_state.md R38). -/
theorem fmt_ne_none {s : State} (hi : s.Inv) (hopen : s.pst ≠ .closed) : s.fmt ≠ .none :=
  mt hi.r38.c_format.mp hopen

/-- A chunk is FPP whole frames (00_scope.md R10). -/
theorem chunkBytes_div_frameBytes {s : State} (hf : s.fmt ≠ .none) :
    s.chunkBytes / s.fmt.frameBytes = s.cfg.framesPerPump s.rate :=
  Nat.mul_div_cancel_left _ (frameBytes_pos hf)

theorem pumpFrames_length {s : State} (hf : s.fmt ≠ .none) : s.pumpFrames.length = s.cfg.framesPerPump s.rate := by
  rw [State.pumpFrames, State.frames, List.length_map, reframe_length hf, ringBytes_length, chunkBytes_div_frameBytes hf]

/-- Frame `i` of a pump is the gained wire frame `i` (R166). -/
theorem pumpFrames_getElem? {s : State} (hf : s.fmt ≠ .none) {i : Nat} (hlt : i < s.cfg.framesPerPump s.rate) :
    s.pumpFrames[i]? = some (gainFrame s.cfg.nch s.gainStep (s.wireSample i 0, s.wireSample i 1)) := by
  have hend : (i + 1) * s.fmt.frameBytes ≤ s.chunkBytes :=
    (Nat.mul_le_mul_right _ hlt).trans_eq (Nat.mul_comm _ _)
  rw [Nat.succ_mul] at hend
  have hframe := frameBytes_eq s.fmt
  rw [State.pumpFrames, State.frames, reframe_eq_map hf, ringBytes_length, chunkBytes_div_frameBytes hf, List.getElem?_map,
    List.getElem?_map, List.getElem?_range hlt, Option.map_some, Option.map_some, decodeFrame, List.drop_drop,
    ringBytes_drop_take s (by omega), ringBytes_drop_take s (by omega)]
  simp [State.wireSample]

/-- The gain of a pump is a legal one (R160). -/
theorem gainStep_le {s : State} (L : LegalFacts s.cfg) : s.gainStep ≤ 32768 := by
  unfold State.gainStep
  split
  · decide
  · rw [List.getD_eq_getElem?_getD]
    cases hentry : s.cfg.gain[s.atten]? with
    | none => decide
    | some g => exact L.gain g (List.mem_of_getElem? hentry)

theorem gainStep_of_mute {s : State} (h : s.mute = true) : s.gainStep = 0 := if_pos h

/-- Not muted, the gain is the table's entry: the attenuation is one of its steps (10_state.md R38). -/
theorem gain_getElem?_atten {s : State} (hi : s.Inv) (h : s.mute = false) : s.cfg.gain[s.atten]? = some s.gainStep := by
  have hlt : s.atten < s.cfg.gain.length := by
    have := hi.r38.f_attenuation
    rw [(legal_facts hi.legal).gainLen]
    omega
  rw [State.gainStep, h, if_neg Bool.false_ne_true, List.getD_eq_getElem _ _ hlt, List.getElem?_eq_getElem hlt]

theorem gainFrame_of_two (g : Nat) (l r : Int) : gainFrame 2 g (l, r) = [gain l g, gain r g] := rfl

theorem gainFrame_of_three (g : Nat) (l r : Int) :
    gainFrame 3 g (l, r) = [gain l g, gain r g, floorShift (gain l g + gain r g) 1] := rfl

/-- The centre of two samples is a sample (R165). -/
theorem centre_range {l r : Int} (hl : IsSample l) (hr : IsSample r) : IsSample (floorShift (l + r) 1) := by
  obtain ⟨hfloor, hnext⟩ := floorShift_floorOf (l + r) 1
  omega

/-- Every gained frame has NCH samples, all in range (R165, R166). -/
theorem gainFrame_range {nch g : Nat} (hnch : nch = 2 ∨ nch = 3) (hg : g ≤ 32768) {l r : Int} (hl : IsSample l)
    (hr : IsSample r) : (gainFrame nch g (l, r)).length = nch ∧ ∀ v ∈ gainFrame nch g (l, r), IsSample v := by
  have hl' := gain_range hl hg
  have hr' := gain_range hr hg
  obtain rfl | rfl := hnch
  · rw [gainFrame_of_two]
    exact ⟨rfl, List.forall_mem_cons.mpr ⟨hl', List.forall_mem_singleton.mpr hr'⟩⟩
  · rw [gainFrame_of_three]
    exact ⟨rfl, List.forall_mem_cons.mpr ⟨hl',
      List.forall_mem_cons.mpr ⟨hr', List.forall_mem_singleton.mpr (centre_range hl' hr')⟩⟩⟩

/-! ## Silence (41_reframer.md R161) -/

/-- Every sample of a list of frames is 0. -/
def Silent (frames : List (List Int)) : Prop := ∀ f ∈ frames, ∀ v ∈ f, v = 0

theorem floorShift_zero (k : Nat) : floorShift 0 k = 0 := Int.zero_ediv _

/-- Muted, and at the last step of a legal gain table, the gain is 0 (R161). -/
theorem gainStep_eq_zero {s : State} (hi : s.Inv) (h : s.mute = true ∨ s.atten = s.cfg.attenMax) : s.gainStep = 0 := by
  cases hmute : s.mute with
  | true => exact gainStep_of_mute hmute
  | false =>
    have hlast : s.atten = s.cfg.attenMax := h.resolve_left (by simp [hmute])
    have hstep := gain_getElem?_atten hi hmute
    rw [hlast, (legal_facts hi.legal).gainLast] at hstep
    exact (Option.some.inj hstep).symm

/-- Gain 0 gives 0 on every channel (R161). -/
theorem gainFrame_zero (nch : Nat) (lr : Int × Int) : ∀ v ∈ gainFrame nch 0 lr, v = 0 := by
  unfold gainFrame
  split <;> simp [floorShift_zero]

theorem pumpFrames_silent {s : State} (h : s.gainStep = 0) : Silent s.pumpFrames := by
  intro f hf
  obtain ⟨lr, -, rfl⟩ := List.mem_map.mp hf
  rw [h]
  exact gainFrame_zero _ lr

theorem getD_eq_zero_of_forall {f : List Int} (h : ∀ v ∈ f, v = 0) (c : Nat) : f.getD c 0 = 0 := by
  rw [List.getD_eq_getElem?_getD]
  cases hv : f[c]? with
  | none => rfl
  | some v => exact h v (List.mem_of_getElem? hv)

theorem sampleAt_of_silent {x : List (List Int)} (hx : Silent x) (n c : Nat) : sampleAt x n c = 0 := by
  rw [sampleAt, List.getD_eq_getElem?_getD (l := x)]
  cases hf : x[n]? with
  | none => rfl
  | some f => exact getD_eq_zero_of_forall (hx f (List.mem_of_getElem? hf)) c

theorem zeroRows_getD {rows c : Nat} (hc : c < rows) (cols : Nat) :
    (zeroRows rows cols).getD c [] = List.replicate cols 0 := by
  rw [zeroRows, List.getD_eq_getElem _ _ (by simpa using hc), List.getElem_replicate]

theorem replicate_zero_getD (cols k : Nat) : (List.replicate cols (0 : BitVec 32)).getD k 0 = 0 := by
  rw [List.getD_eq_getElem?_getD, List.getElem?_replicate]
  split <;> rfl

/-- A filter table at 0 reads 0, inside its dimensions and outside. -/
theorem regAt_zeroRows (rows cols c k : Nat) : regAt (zeroRows rows cols) c k = 0 := by
  unfold regAt
  by_cases hc : c < rows
  · rw [zeroRows_getD hc, replicate_zero_getD]; rfl
  · rw [List.getD_eq_default (zeroRows rows cols) _ (by simpa [zeroRows] using hc)]; rfl

/-- Zero input over a zero backlog gives a zero sum (42_upsampler.md R181). -/
theorem firAcc_of_silent {cfg : Config} (r : Rate) {x : List (List Int)} (hx : Silent x) (rows cols n p c : Nat) :
    firAcc cfg r (zeroRows rows cols) x n p c = 0 := by
  have hwindow (j : Nat) : window (zeroRows rows cols) x n c j = 0 := by
    unfold window
    split
    · exact sampleAt_of_silent hx _ _
    · exact regAt_zeroRows _ _ _ _
  simp [firAcc, hwindow]

theorem upsampleRaw_silent {cfg : Config} (r : Rate) {x : List (List Int)} (hx : Silent x) (rows cols : Nat) :
    Silent (upsampleRaw cfg r (zeroRows rows cols) x) := by
  intro f hf v hv
  simp only [upsampleRaw, List.mem_flatMap, List.mem_map] at hf
  obtain ⟨n, -, p, -, rfl⟩ := hf
  obtain ⟨c, -, rfl⟩ := List.mem_map.mp hv
  rw [firAcc_of_silent r hx, floorShift_zero]

theorem clampFrames_silent {raw : List (List Int)} (h : Silent raw) : Silent (clampFrames raw) := by
  intro f hf v hv
  obtain ⟨f₀, hf₀, rfl⟩ := List.mem_map.mp hf
  obtain ⟨v₀, hv₀, rfl⟩ := List.mem_map.mp hv
  rw [h f₀ hf₀ v₀ hv₀]
  rfl

/-- The level nearest to 0 is 0: half a step rounds down (43_noise_shaper.md R200). -/
theorem quantLevel_zero {c : Config} (L : LegalFacts c) : quantLevel c 0 = 0 := by
  have hraw : quantRaw c 0 = 0 := by
    have hstep : c.stepShift - 1 < c.stepShift := by have := L.pw; unfold Config.stepShift; omega
    rw [quantRaw, zero_add, floorShift]
    exact Int.ediv_eq_zero_of_lt (by positivity) (by exact_mod_cast Nat.pow_lt_pow_right (by norm_num) hstep)
  have hmax : 0 ≤ c.qMax := by
    have := Nat.two_pow_pos (c.pwmBits - 1)
    unfold Config.qMax
    omega
  rw [quantLevel, hraw, clamp, if_neg (by omega), if_neg (by omega)]

theorem shaperFeedback_zero (c : Config) (cols : Nat) : shaperFeedback c (List.replicate cols 0) = 0 := by
  have hterm (i : Nat) : c.nsCoef.getD i 0 * ((List.replicate cols (0 : BitVec 32)).getD i 0).toInt = 0 := by
    rw [replicate_zero_getD]
    exact mul_zero _
  simp only [shaperFeedback, hterm]
  simp [floorShift_zero]

/-- Shape of 0 from a zero row: the code MID, and the row stays zero (43_noise_shaper.md R200). -/
theorem shape_zero {c : Config} (L : LegalFacts c) :
    (shape c (List.replicate c.nsOrder 0) 0).code = c.mid ∧
    (shape c (List.replicate c.nsOrder 0) 0).row = List.replicate c.nsOrder 0 := by
  have hv : (0 : Int) - shaperFeedback c (List.replicate c.nsOrder 0) = 0 := by rw [shaperFeedback_zero, sub_zero]
  have he : quantError c 0 = 0 := by rw [quantError, quantLevel_zero L, zero_mul, sub_zero]
  constructor
  · rw [shape, hv, quantLevel_zero L, zero_add]
  · rw [shape, hv, he]
    refine List.eq_replicate_iff.mpr ⟨by simp [shiftErrors], fun v hmem => ?_⟩
    obtain ⟨i, -, rfl⟩ := List.mem_map.mp hmem
    split
    · rfl
    · exact replicate_zero_getD _ _

/-- A zero frame from zero rows: MID on every channel, and the rows stay zero (43_noise_shaper.md R203). -/
theorem shapeFrame_zero (c : Config) {f : List Int} (hf : ∀ v ∈ f, v = 0) :
    shapeFrame c (zeroRows c.nch c.nsOrder) f = List.replicate c.nch (shape c (List.replicate c.nsOrder 0) 0) := by
  refine List.eq_replicate_iff.mpr ⟨by simp [shapeFrame], fun sh hmem => ?_⟩
  obtain ⟨k, hk, rfl⟩ := List.mem_map.mp hmem
  rw [zeroRows_getD (List.mem_range.mp hk), getD_eq_zero_of_forall hf]

/-- Silence from zero rows is shaped to MID throughout (43_noise_shaper.md R200, R203). -/
theorem shapeFrames_of_silent {c : Config} (L : LegalFacts c) {fs : List (List Int)} (hfs : Silent fs) :
    ∀ q ∈ (shapeFrames c (zeroRows c.nch c.nsOrder) fs).codes, q = c.mid := by
  obtain ⟨hcode, hrow⟩ := shape_zero L
  induction fs with
  | nil => simp [shapeFrames]
  | cons f fs ih =>
    obtain ⟨hf, hrest⟩ := List.forall_mem_cons.mp hfs
    have hnow := shapeFrame_zero c hf
    have hrows : (shapeFrame c (zeroRows c.nch c.nsOrder) f).map Shaped.row = zeroRows c.nch c.nsOrder := by
      rw [hnow, List.map_replicate, hrow, zeroRows]
    intro q hq
    rw [shapeFrames, hrows] at hq
    obtain hq | hq := List.mem_append.mp hq
    · rw [hnow, List.map_replicate, hcode] at hq
      exact List.eq_of_mem_replicate hq
    · exact ih hrest q hq

end Machine

open Machine

/-! ## The statements -/

/-- Settles O20: the bytes are one word, and the word's class by its exponent and fraction. -/
theorem floatSamplesTruncateTowardZero : Obligations.FloatSamplesTruncateTowardZero := by
  refine ⟨fun b0 b1 b2 b3 => by rw [decodeSample, littleEndian_four], fun sgn e f => ?_⟩
  intro u magnitude
  have hfields : f32ToQ31 u = _ := f32ToQ31_fields sgn e f
  refine ⟨fun hmax hnan => ?_, fun hmax hinf => ?_, fun hfinite => ?_⟩
  · rw [hfields, if_pos hmax, if_pos hnan]
  · rw [hfields, if_pos hmax, if_neg (not_not.mpr hinf)]
  · have hvalue : f32Value e.toNat f.toNat = magnitude := 
      if_congr (by rw [← BitVec.toNat_inj]; rfl) rfl rfl
    rw [hfields, if_neg hfinite, sat32_eq_max_min, f32Magnitude_eq_floor, hvalue]

/-- Settles O21, by induction on the frames. -/
theorem reframeDecodesWholeFrames : Obligations.ReframeDecodesWholeFrames := by
  intro f frames rest hf hframes hrest
  induction frames with
  | nil => exact reframe_of_short hrest
  | cons x xs ih =>
    obtain ⟨hx, hxs⟩ := List.forall_mem_cons.mp hframes
    rw [List.flatten_cons, List.append_assoc, reframe_append hf hx, ih hxs, List.map_cons]

/-- Settles O22: the floor, and its monotonicity between the exact points 0 and unity. -/
theorem gainScalesExactly : Obligations.GainScalesExactly := by
  intro x g hlow hhigh hg
  obtain ⟨hfloor, hnext⟩ := gain_floorOf x g
  obtain ⟨hmin, hmax⟩ := gain_range ⟨hlow, hhigh⟩ hg
  exact ⟨hfloor, hnext, hmin, hmax, abs_gain_le x hg, gain_unity x, gain_zero x, fun _ => abs_gain_le_abs_gain x⟩

/-- Settles O23: frame `i` is the gained wire frame `i`, with two channels or with three. -/
theorem pumpFramesAreInRange : Obligations.PumpFramesAreInRange := by
  intro s hi hopen
  have L := legal_facts hi.legal
  have hf := fmt_ne_none hi hopen
  refine ⟨pumpFrames_length hf, fpp_mul_ratio L s.rate, rfl, s.gainStep, gainStep_of_mute, gain_getElem?_atten hi, ?_⟩
  intro i hlt wire
  have hframe := pumpFrames_getElem? hf hlt
  refine ⟨_, _, gain_floorOf (wire 0) s.gainStep, gain_floorOf (wire 1) s.gainStep, fun htwo => ?_, fun hthree => ?_,
    fun x hx => ?_⟩
  · rw [hframe, htwo, gainFrame_of_two]; rfl
  · refine ⟨_, floorShift_floorOf _ 1, ?_⟩
    rw [hframe, hthree, gainFrame_of_three]; rfl
  · obtain rfl : _ = x := Option.some.inj (hframe.symm.trans hx)
    exact gainFrame_range L.nch (gainStep_le L) (wireSample_range s i 0) (wireSample_range s i 1)

/-- Settles O24: the gain is 0, and zero frames from a zero state are shaped to MID. -/
theorem muteIsSilence : Obligations.MuteIsSilence := by
  intro s hi hsilent
  have hframes := pumpFrames_silent (gainStep_eq_zero hi hsilent)
  refine ⟨hframes, fun hbl hnse q hq => ?_⟩
  rw [State.pumpShaped, State.pumpRaw, hbl, hnse] at hq
  have hq := shapeFrames_of_silent (legal_facts hi.legal) (clampFrames_silent (upsampleRaw_silent _ hframes _ _)) q hq
  rw [hq, Config.mid, Nat.cast_pow, Nat.cast_ofNat]

end Sys2Proof
end

section
/-! SUPPORT. The upsampler (42_upsampler.md): the window past the end of a pump's frames is the window of the next pump,
because the backlog keeps the window registers; the accumulator as a sum of taps times window samples, exact on a constant
window and bounded where no tap is negative; then the statements. -/

namespace Sys2Proof

namespace Machine

/-! ## The window over the frames of two pumps (42_upsampler.md R180) -/

theorem sampleAt_append_left {x y : List (List Int)} {n : Nat} (h : n < x.length) (c : Nat) :
    sampleAt (x ++ y) n c = sampleAt x n c := by
  rw [sampleAt, List.getD_append _ _ _ _ h, sampleAt]

theorem sampleAt_append_right (x y : List (List Int)) (n c : Nat) :
    sampleAt (x ++ y) (x.length + n) c = sampleAt y n c := by
  rw [sampleAt, List.getD_append_right _ _ _ _ (Nat.le_add_right _ _), Nat.add_sub_cancel_left, sampleAt]

/-- The window at a frame of the first pump does not see the second pump's frames. -/
theorem window_append_left {x y : List (List Int)} {n : Nat} (h : n < x.length) (bl : List (List (BitVec 32))) (c j : Nat) :
    window bl (x ++ y) n c j = window bl x n c j := by
  rw [window, sampleAt_append_left (Nat.lt_of_le_of_lt (Nat.sub_le _ _) h), window]

/-- The window at frame `n` of the second pump: its own newest samples, then the window past the first pump's end. -/
theorem window_append_right (bl : List (List (BitVec 32))) (x y : List (List Int)) (n c j : Nat) :
    window bl (x ++ y) (x.length + n) c j =
      if j ≤ n then sampleAt y (n - j) c else window bl x x.length c (j - n) := by
  split
  case isTrue hown =>
    rw [window, if_pos (by omega), Nat.add_sub_assoc hown, sampleAt_append_right]
  case isFalse hpast =>
    unfold window
    split
    case isTrue hfirst =>
      rw [if_pos (by omega), sampleAt_append_left (by omega)]
      congr 1
      omega
    case isFalse hold =>
      rw [if_neg (by omega)]
      congr 1
      omega

/-! ## The backlog as the window past the end (42_upsampler.md R183) -/

/-- Register `k` of the new backlog holds the window sample `k` frames before the end of the pump. -/
theorem shiftBacklog_eq_window (cfg : Config) (fpp : Nat) (bl : List (List (BitVec 32))) (x : List (List Int)) :
    shiftBacklog cfg fpp bl x =
      (List.range cfg.nch).map fun c => (List.range (cfg.phaseLen - 1)).map fun i => toReg (window bl x fpp c (i + 1)) := by
  simp only [shiftBacklog, window, apply_ite toReg]

theorem regAt_shiftBacklog {cfg : Config} {c k : Nat} (hc : c < cfg.nch) (hk : 1 ≤ k) (hlen : k < cfg.phaseLen)
    (fpp : Nat) (bl : List (List (BitVec 32))) (x : List (List Int)) :
    regAt (shiftBacklog cfg fpp bl x) c k = (toReg (window bl x fpp c k)).toInt := by
  have hrow : (shiftBacklog cfg fpp bl x).getD c [] =
      (List.range (cfg.phaseLen - 1)).map fun i => toReg (window bl x fpp c (i + 1)) := by
    rw [shiftBacklog_eq_window, List.getD_eq_getElem _ _ (by simpa using hc), List.getElem_map, List.getElem_range]
  have hreg : k - 1 < cfg.phaseLen - 1 := by omega
  rw [regAt, hrow, List.getD_eq_getElem _ _ (by simpa using hreg), List.getElem_map, List.getElem_range,
    Nat.sub_add_cancel hk]

/-- The window at frame `n` of a pump over the backlog that a first one left. -/
theorem window_shiftBacklog {cfg : Config} {c j : Nat} (hc : c < cfg.nch) (hj : j < cfg.phaseLen) (fpp : Nat)
    (bl : List (List (BitVec 32))) (x y : List (List Int)) (n : Nat) :
    window (shiftBacklog cfg fpp bl x) y n c j =
      if j ≤ n then sampleAt y (n - j) c else (toReg (window bl x fpp c (j - n))).toInt := by
  unfold window
  split
  case isTrue => rfl
  case isFalse => exact regAt_shiftBacklog hc (by omega) (by omega) fpp bl x

/-- Register for register, the second pump's window over the backlog the first left is the window of one run. -/
theorem toReg_window_append {cfg : Config} {c j : Nat} (hc : c < cfg.nch) (hj : j < cfg.phaseLen) (n : Nat)
    (bl : List (List (BitVec 32))) (x y : List (List Int)) :
    toReg (window bl (x ++ y) (x.length + n) c j) = toReg (window (shiftBacklog cfg x.length bl x) y n c j) := by
  rw [window_append_right, window_shiftBacklog hc hj]
  split
  case isTrue => rfl
  case isFalse => rw [toReg_of_toInt]

/-- 32-bit samples pass through the backlog's registers unchanged. -/
theorem window_append_shiftBacklog {cfg : Config} {c j : Nat} (hc : c < cfg.nch) (hj : j < cfg.phaseLen) (n : Nat)
    (bl : List (List (BitVec 32))) {x : List (List Int)} (hx : ∀ f ∈ x, ∀ v ∈ f, IsSample v) (y : List (List Int)) :
    window bl (x ++ y) (x.length + n) c j = window (shiftBacklog cfg x.length bl x) y n c j := by
  obtain ⟨hlow, hhigh⟩ := window_range hx bl x.length c (j - n)
  rw [window_append_right, window_shiftBacklog hc hj, toReg_toInt hlow hhigh]

/-- Two pumps leave the backlog of one run over the frames of both. -/
theorem shiftBacklog_append (cfg : Config) (bl : List (List (BitVec 32))) (x y : List (List Int)) :
    shiftBacklog cfg (x ++ y).length bl (x ++ y) = shiftBacklog cfg y.length (shiftBacklog cfg x.length bl x) y := by
  rw [List.length_append, shiftBacklog_eq_window, shiftBacklog_eq_window cfg y.length]
  refine List.map_congr_left fun c hc => List.map_congr_left fun i hi => ?_
  rw [List.mem_range] at hc hi
  exact toReg_window_append hc (by omega) _ bl x y

/-! ## The accumulator (42_upsampler.md R181) -/

/-- Tap `j` of phase `p`: the coefficient table strided by `U`. -/
def tap (cfg : Config) (r : Rate) (p j : Nat) : Int := (cfg.at r).coef.getD (j * (cfg.at r).u + p) 0

theorem firAcc_eq_sum (cfg : Config) (r : Rate) (bl : List (List (BitVec 32))) (x : List (List Int)) (n p c : Nat) :
    firAcc cfg r bl x n p c = ∑ j ∈ Finset.range cfg.phaseLen, tap cfg r p j * window bl x n c j := rfl

/-- The accumulator depends on the first `PHASE_LEN` window samples only. -/
theorem firAcc_congr {cfg : Config} {bl bl' : List (List (BitVec 32))} {x x' : List (List Int)} {n n' c : Nat}
    (h : ∀ j < cfg.phaseLen, window bl x n c j = window bl' x' n' c j) (r : Rate) (p : Nat) :
    firAcc cfg r bl x n p c = firAcc cfg r bl' x' n' p c := by
  rw [firAcc_eq_sum, firAcc_eq_sum]
  exact Finset.sum_congr rfl fun j hj => by rw [h j (Finset.mem_range.mp hj)]

theorem firAcc_of_constant_window {cfg : Config} {bl : List (List (BitVec 32))} {x : List (List Int)} {n c : Nat} {v : Int}
    (h : ∀ j < cfg.phaseLen, window bl x n c j = v) (r : Rate) (p : Nat) :
    firAcc cfg r bl x n p c = (∑ j ∈ Finset.range cfg.phaseLen, tap cfg r p j) * v := by
  rw [firAcc_eq_sum, Finset.sum_mul]
  exact Finset.sum_congr rfl fun j hj => by rw [h j (Finset.mem_range.mp hj)]

/-! ## Outputs in the sample range (42_upsampler.md R184) -/

theorem tap_nonneg {cfg : Config} {r : Rate} (h : ∀ k ∈ (cfg.at r).coef, 0 ≤ k) (p j : Nat) : 0 ≤ tap cfg r p j := by
  rw [tap, List.getD_eq_getElem?_getD]
  cases hk : (cfg.at r).coef[j * (cfg.at r).u + p]? with
  | none => exact le_rfl
  | some k => exact h k (List.mem_of_getElem? hk)

/-- Without negative taps the absolute tap sum is the tap sum. -/
theorem tapSum_le_of_unitTapSums {cfg : Config} {r : Rate} (hunit : unitTapSums cfg r)
    (hpos : ∀ k ∈ (cfg.at r).coef, 0 ≤ k) {p : Nat} (hp : p < (cfg.at r).u) :
    ∑ j ∈ Finset.range cfg.phaseLen, tap cfg r p j ≤ 2 ^ cfg.coefFrac :=
  calc
    _ = ∑ j ∈ Finset.range cfg.phaseLen, |tap cfg r p j| :=
      Finset.sum_congr rfl fun j _ => (abs_of_nonneg (tap_nonneg hpos p j)).symm
    _ ≤ _ := hunit p hp

/-- A sum over `[lo, hi]` with weights that are not negative and sum to at most `m` lies in `[lo * m, hi * m]`. -/
theorem weightedSum_range {n : Nat} {k w : Nat → Int} {lo hi m : Int} (hk : ∀ j, 0 ≤ k j)
    (hm : ∑ j ∈ Finset.range n, k j ≤ m) (hw : ∀ j, lo ≤ w j ∧ w j ≤ hi) (hlo : lo ≤ 0) (hhi : 0 ≤ hi) :
    lo * m ≤ ∑ j ∈ Finset.range n, k j * w j ∧ ∑ j ∈ Finset.range n, k j * w j ≤ hi * m := by
  constructor
  · calc
      lo * m ≤ lo * ∑ j ∈ Finset.range n, k j := mul_le_mul_of_nonpos_left hm hlo
      _ = ∑ j ∈ Finset.range n, k j * lo := by rw [mul_comm, Finset.sum_mul]
      _ ≤ _ := Finset.sum_le_sum fun j _ => mul_le_mul_of_nonneg_left (hw j).1 (hk j)
  · calc
      _ ≤ ∑ j ∈ Finset.range n, k j * hi := Finset.sum_le_sum fun j _ => mul_le_mul_of_nonneg_left (hw j).2 (hk j)
      _ = hi * ∑ j ∈ Finset.range n, k j := by rw [mul_comm, Finset.sum_mul]
      _ ≤ hi * m := mul_le_mul_of_nonneg_left hm hhi

theorem floorShift_range {v lo hi : Int} {k : Nat} (hlow : lo * 2 ^ k ≤ v) (hhigh : v ≤ hi * 2 ^ k) :
    lo ≤ floorShift v k ∧ floorShift v k ≤ hi := by
  rw [floorShift_eq]
  exact ⟨Int.le_ediv_of_mul_le (by positivity) hlow, Int.ediv_le_of_le_mul (by positivity) hhigh⟩

/-- Every sample before the clamp is the floor of one accumulator (R181, R182). -/
theorem exists_firAcc_of_mem_upsampleRaw {cfg : Config} {r : Rate} {bl : List (List (BitVec 32))} {x : List (List Int)}
    {f : List Int} (hf : f ∈ upsampleRaw cfg r bl x) {v : Int} (hv : v ∈ f) :
    ∃ n c, ∃ p < (cfg.at r).u, v = floorShift (firAcc cfg r bl x n p c) cfg.coefFrac := by
  simp only [upsampleRaw, List.mem_flatMap, List.mem_map, List.mem_range] at hf
  obtain ⟨n, -, p, hp, rfl⟩ := hf
  obtain ⟨c, -, rfl⟩ := List.mem_map.mp hv
  exact ⟨n, c, p, hp, rfl⟩

/-- The reference profile with a single tap, the negative unit, in its NORMAL table. -/
def negativeTapConfig : Config :=
  { Config.reference with normal := { Config.reference.normal with coef := [-32768, 0, 0, 0, 0, 0, 0, 0] } }

/-- `-2^15 * -2^31 / 2^15 = 2^31` is one above the largest sample. -/
theorem negativeTapConfig_saturates :
    clampEvents (upsampleRaw negativeTapConfig .normal (zeroRows 2 1) [[-2 ^ 31, 0]]) = 1 := by decide

end Machine

open Machine

/-! ## The statements -/

/-- Settles O25: the windows of the two pumps are the windows of one run, so their sums are. -/
theorem upsamplerIsContinuous : Obligations.UpsamplerIsContinuous := by
  intro cfg r bl x y
  refine ⟨fun n p c => ?_, fun n p c hn => ?_, fun hx n p c hc => ?_, shiftBacklog_append cfg bl x y⟩
  · rw [firAcc_eq_sum]; rfl
  · exact firAcc_congr (fun j _ => window_append_left hn bl c j) r p
  · exact firAcc_congr (fun j hj => window_append_shiftBacklog hc hj n bl hx y) r p

/-- Settles O26: the constant leaves the sum, and the tap sum cancels against the shift. -/
theorem upsamplerPassesDC : Obligations.UpsamplerPassesDC := by
  intro cfg r bl x n p c v hunity hwindow
  have hsum : ∑ j ∈ Finset.range cfg.phaseLen, tap cfg r p j = 2 ^ cfg.coefFrac := hunity
  rw [firAcc_of_constant_window hwindow, hsum, floorShift_eq]
  exact Int.mul_ediv_cancel_left v (by positivity)

/-- Refutes O27: a tap of `-2^COEF_FRAC` turns the sample `-2^31` into `2^31`, which clamps. -/
theorem not_unitTapSumsNeverSaturate : ¬ Obligations.UnitTapSumsNeverSaturate := by
  intro h
  have hnone := h negativeTapConfig .normal (zeroRows 2 1) [[-2 ^ 31, 0]] (by decide) (by decide) (by decide)
  rw [negativeTapConfig_saturates] at hnone
  exact absurd hnone one_ne_zero

/-- Settles O28: each accumulator is a weighted sum of samples with weights that sum to at most `2^COEF_FRAC`. -/
theorem positiveUnitTapSumsNeverSaturate : Obligations.PositiveUnitTapSumsNeverSaturate := by
  intro cfg r bl x _ hunit hpos hx
  refine clampEvents_zero fun f hf v hv => ?_
  obtain ⟨n, c, p, hp, rfl⟩ := exists_firAcc_of_mem_upsampleRaw hf hv
  obtain ⟨hlow, hhigh⟩ := weightedSum_range (tap_nonneg hpos p) (tapSum_le_of_unitTapSums hunit hpos hp)
    (window_range hx bl n c) (by norm_num) (by norm_num)
  exact floorShift_range hlow hhigh

end Sys2Proof
end

section
/-! SUPPORT. The noise shaper (43_noise_shaper.md): the quantiser rounds to the nearest level, so its error is at most half a
step where no clamp acts; the row of stored errors as a shift register; then the statement. -/

namespace Sys2Proof

namespace Machine

/-! ## The quantiser (43_noise_shaper.md R200, R201) -/

/-- `clamp` in closed form (00_scope.md R12). -/
theorem clamp_eq_max_min {lo hi : Int} (h : lo ≤ hi) (v : Int) : clamp v lo hi = max lo (min hi v) := by
  unfold clamp
  split <;> [skip; split] <;> omega

theorem qMax_nonneg (c : Config) : 0 ≤ c.qMax := by
  have := Nat.two_pow_pos (c.pwmBits - 1)
  unfold Config.qMax
  omega

theorem quantLevel_eq_max_min (c : Config) (v : Int) : quantLevel c v = max (-c.qMax) (min c.qMax (quantRaw c v)) :=
  clamp_eq_max_min (by have := qMax_nonneg c; omega) _

/-- The quantiser step is two whole half steps, as `PWM_BITS` is below 32 (00_scope.md R8, R10). -/
theorem two_pow_stepShift {c : Config} (L : LegalFacts c) :
    (2 : Int) ^ c.stepShift = 2 * 2 ^ (c.stepShift - 1) := by
  have hstep : c.stepShift = c.stepShift - 1 + 1 := by have := L.pw; unfold Config.stepShift; omega
  rw [← pow_succ', ← hstep]

theorem half_step_eq {c : Config} (L : LegalFacts c) : (2 : Int) ^ c.stepShift / 2 = 2 ^ (c.stepShift - 1) := by
  rw [two_pow_stepShift L, Int.mul_ediv_cancel_left _ two_ne_zero]

/-- Adding half a step before the floor rounds to the nearest level, ties upward. -/
theorem quantRaw_floorOf {c : Config} (L : LegalFacts c) (v : Int) :
    FloorOf (v + 2 ^ c.stepShift / 2) c.stepShift (quantRaw c v) := by
  rw [half_step_eq L]
  exact_mod_cast floorShift_floorOf (v + ((2 ^ (c.stepShift - 1) : Nat) : Int)) c.stepShift

theorem quantError_eq (c : Config) (v : Int) : quantError c v = quantLevel c v * 2 ^ c.stepShift - v := by
  simp [quantError]

/-- Where the clamp changes nothing, the level is at most half a step from the input, and a whole half step only above it
(R204). -/
theorem quantError_range {c : Config} (L : LegalFacts c) {v : Int} (h : quantLevel c v = quantRaw c v) :
    -(2 ^ c.stepShift / 2) < quantError c v ∧ quantError c v ≤ 2 ^ c.stepShift / 2 := by
  obtain ⟨hlow, hhigh⟩ := quantRaw_floorOf L v
  have herror := quantError_eq c v
  have hstep := two_pow_stepShift L
  have hhalf := half_step_eq L
  rw [h] at herror
  rw [add_one_mul] at hhigh
  constructor <;> omega

/-! ## The row of stored errors (43_noise_shaper.md R200) -/

/-- The filtered past error is the floor of the tap sum. -/
theorem shaperFeedback_floorOf (c : Config) (row : List (BitVec 32)) :
    FloorOf (∑ k ∈ Finset.range c.nsOrder, c.nsCoef.getD k 0 * (row.getD k 0).toInt) c.nsFrac (shaperFeedback c row) :=
  floorShift_floorOf _ _

theorem shiftErrors_length (c : Config) (e : Int) (row : List (BitVec 32)) : (shiftErrors c e row).length = c.nsOrder := by
  simp [shiftErrors]

theorem shiftErrors_getD {c : Config} {k : Nat} (hk : k < c.nsOrder) (e : Int) (row : List (BitVec 32)) :
    (shiftErrors c e row).getD k 0 = if k = 0 then toReg e else row.getD (k - 1) 0 := by
  rw [List.getD_eq_getElem _ _ (by rwa [shiftErrors_length])]
  simp only [shiftErrors, List.getElem_map, List.getElem_range]

/-- A saturated error survives its register. -/
theorem toReg_sat32_toInt (v : Int) : (toReg (sat 32 v)).toInt = sat 32 v :=
  toReg_toInt (sat32_range v).1 (sat32_range v).2

end Machine

open Machine

/-! ## The statement -/

/-- Settles O29: the witnesses are the model's own feedback, levels and errors. -/
theorem shapeQuantisesToTheNearestLevel : Obligations.ShapeQuantisesToTheNearestLevel := by
  intro cfg row x hlegal
  have L := legal_facts hlegal
  have hmax : cfg.qMax = 2 ^ (cfg.pwmBits - 1) - 1 := by simp [Config.qMax]
  have hmid : cfg.mid = 2 ^ (cfg.pwmBits - 1) := by simp [Config.mid]
  have hpos : 0 < cfg.nsOrder := by have := L.ns3; omega
  obtain ⟨hcodeLow, hcodeHigh⟩ := shape_code_range L row x
  let v := x - shaperFeedback cfg row
  refine ⟨shaperFeedback cfg row, quantRaw cfg v, quantLevel cfg v, quantError cfg v, sat 32 (quantError cfg v), ?_⟩
  refine ⟨shaperFeedback_floorOf cfg row, quantRaw_floorOf L v, ?level, quantError_eq cfg v, sat32_eq_max_min _, ?code,
    hcodeLow, hcodeHigh, quantError_range L, shiftErrors_length cfg _ row, ?newest, fun k hk => ?older, rfl⟩
  case level => rw [← hmax]; exact quantLevel_eq_max_min cfg v
  case code => rw [← hmid]; rfl
  case newest => exact (congrArg BitVec.toInt (shiftErrors_getD hpos _ row)).trans (toReg_sat32_toInt _)
  case older => exact shiftErrors_getD hk _ row

end Sys2Proof
end

section
/-! SUPPORT. The feedback-rate controller (44_feedback.md): `sh_r` for either sign of the shift and the value it gives; the
send test and the report boundary as equations; a run of ticks; then the statements. -/

namespace Sys2Proof

namespace Machine

/-! ## The shift `sh_r` and HALF (00_scope.md R10) -/

theorem fbScale_of_nonneg {c : Config} {r : Rate} (h : 0 ≤ (c.at r).fbShift) (d : Nat) :
    c.fbScale r d = (d : Int) * 2 ^ (c.at r).fbShift.toNat := by
  simp [Config.fbScale, h]

theorem fbScale_of_neg {c : Config} {r : Rate} (h : (c.at r).fbShift < 0) (d : Nat) :
    c.fbScale r d = floorShift d (-(c.at r).fbShift).toNat := if_neg (not_le.mpr h)

theorem fbScale_shiftedBy (c : Config) (r : Rate) (d : Nat) : ShiftedBy (c.at r).fbShift d (c.fbScale r d) :=
  ⟨fun h => fbScale_of_nonneg h d, fun h => fbScale_of_neg h d ▸ floorShift_floorOf _ _⟩

theorem fbScale_mono (c : Config) (r : Rate) : Monotone (c.fbScale r) := by
  intro d d' hle
  rcases le_or_gt 0 (c.at r).fbShift with h | h
  · rw [fbScale_of_nonneg h, fbScale_of_nonneg h]
    gcongr
  · rw [fbScale_of_neg h, fbScale_of_neg h, floorShift_eq, floorShift_eq]
    exact Int.ediv_le_ediv (by positivity) (by exact_mod_cast hle)

@[simp] theorem fbScale_zero (c : Config) (r : Rate) : c.fbScale r 0 = 0 := by
  simp [Config.fbScale, floorShift]

theorem half_floorOf (c : Config) (r : Rate) : FloorOf (c.fbScale r c.fbD) 1 (c.half r) := floorShift_floorOf _ _

theorem half_nonneg (c : Config) (r : Rate) : 0 ≤ c.half r := by
  have hscale : 0 ≤ c.fbScale r c.fbD := fbScale_zero c r ▸ fbScale_mono c r (Nat.zero_le _)
  exact Int.ediv_nonneg hscale (by positivity)

/-- A ring of at least two slots makes FB_D even (00_scope.md R8). -/
theorem two_dvd_fbD {c : Config} (L : LegalFacts c) : 2 ∣ c.fbD :=
  (dvd_pow_self 2 (Nat.one_le_iff_ne_zero.mp L.rb1)).mul_right _

/-- With no bit shifted out, half the expected range scales to HALF. -/
theorem fbScale_half_fbD {c : Config} (L : LegalFacts c) {r : Rate} (h : 0 ≤ (c.at r).fbShift) :
    c.fbScale r (c.fbD / 2) = c.half r := by
  obtain ⟨m, hm⟩ := two_dvd_fbD L
  rw [Config.half, floorShift_eq, hm, Nat.mul_div_cancel_left m two_pos, fbScale_of_nonneg h, fbScale_of_nonneg h]
  push_cast
  rw [mul_assoc, Int.mul_ediv_cancel_left _ two_ne_zero]

/-! ## FbCompute (44_feedback.md R222, R225) -/

theorem fbComputeAt_of_not_playing {p : PumpState} (h : p = .closed ∨ p = .fill) (c : Config) (r : Rate) (d : Nat) :
    fbComputeAt c p r d = (c.at r).nom := if_pos h

theorem fbComputeAt_of_playing {c : Config} (L : LegalFacts c) {p : PumpState} (h : p = .running ∨ p = .drain) (r : Rate)
    (d : Nat) :
    fbComputeAt c p r d =
      max ((c.at r).fbMin : Int) (min (c.at r).fbMax ((c.at r).nom + c.fbScale r d - c.half r)) := by
  have hplays : ¬ (p = .closed ∨ p = .fill) := by rcases h with rfl | rfl <;> decide
  have hbounds : ((c.at r).fbMin : Int) ≤ (c.at r).fbMax := by exact_mod_cast (L.fb1 r).trans (L.fb2 r)
  rw [fbComputeAt, if_neg hplays, clamp_eq_max_min hbounds]

/-- The value a boundary reports, in its register. -/
def State.reportValue (s : State) : BitVec 24 := BitVec.ofInt 24 s.fbCompute

theorem reportValue_toNat {s : State} (hi : s.Inv) :
    (s.reportValue.toNat : Int) = fbComputeAt s.cfg s.pst s.rate s.delta.toNat :=
  fbComputeAt_register (legal_facts hi.legal) _ _ _

/-! ## The send test (44_feedback.md R230, R231) -/

theorem trySend_of_no_value {s : State} (h : s.fbReady = false) : trySend s = s := by simp [trySend, h]

theorem trySend_of_taken {s : State} (h : s.epFree = false) : trySend s = s := by simp [trySend, h]

/-- The byte `i` of a value is what is left of it after `i` whole bytes (20_memory.md R62). -/
theorem reportByte_eq_ofNat (v : BitVec 24) (i : Nat) : reportByte v i = BitVec.ofNat 8 (v.toNat / 2 ^ (8 * i)) := by
  rw [reportByte, BitVec.extractLsb', Nat.shiftRight_eq_div_pow]

/-- The report of a value: its three bytes, least significant first (20_memory.md R62). -/
def reportOf (v : BitVec 24) : Output :=
  .fbSend (BitVec.ofNat 8 v.toNat) (BitVec.ofNat 8 (v.toNat / 256)) (BitVec.ofNat 8 (v.toNat / 65536))

theorem reportOf_eq (v : BitVec 24) : reportOf v = .fbSend (reportByte v 0) (reportByte v 1) (reportByte v 2) := by
  simp [reportOf, reportByte_eq_ofNat]

theorem trySend_of_waiting {s : State} (hready : s.fbReady = true) (hfree : s.epFree = true) :
    trySend s = { s with fbReady := false, epFree := false, outputs := s.outputs ++ [reportOf s.fbValue] } := by
  rw [reportOf_eq]
  exact if_pos ⟨hready, hfree⟩

/-! ## One tick (44_feedback.md R224) -/

@[simp] theorem reportBoundary_delta (s : State) : (reportBoundary s).delta = 0 := rfl
@[simp] theorem reportBoundary_fbReady (s : State) : (reportBoundary s).fbReady = true := rfl

/-- Neither the loss of the old value nor the clear of `delta` touches what the new value is computed from. -/
@[simp] theorem reportBoundary_fbValue (s : State) : (reportBoundary s).fbValue = s.reportValue := by
  simp [reportBoundary, newReport, State.reportValue, State.fbCompute]

theorem reportBoundary_of_unsent {s : State} (h : s.fbReady = true) :
    reportBoundary s = { s with
      fbValue := s.reportValue, delta := 0, fbReady := true, pend := s.pend ||| 0x10,
      cntFblost := addSat32 s.cntFblost 1 } := by
  have hlost : lostReport s = raise .fblost s.fbValue.toNat s := if_pos h
  rw [reportBoundary, hlost]
  rfl

theorem reportBoundary_of_sent {s : State} (h : s.fbReady = false) :
    reportBoundary s = { s with fbValue := s.reportValue, delta := 0, fbReady := true } := by
  have hlost : lostReport s = s := if_neg (by simp [h])
  rw [reportBoundary, hlost]
  rfl

/-- An unsent value is lost to the new one, which waits in its place. -/
theorem boundary_overwrites {s : State} (hready : s.fbReady = true) (htaken : s.epFree = false) :
    trySend (reportBoundary s) = { s with
      fbValue := s.reportValue, delta := 0, pend := s.pend ||| 0x10, cntFblost := addSat32 s.cntFblost 1 } := by
  rw [trySend_of_taken (by simpa using htaken), reportBoundary_of_unsent hready, ← hready]

theorem boundary_waits {s : State} (hready : s.fbReady = false) (htaken : s.epFree = false) :
    trySend (reportBoundary s) = { s with fbValue := s.reportValue, delta := 0, fbReady := true } := by
  rw [trySend_of_taken (by simpa using htaken), reportBoundary_of_sent hready]

theorem boundary_sends {s : State} (hready : s.fbReady = false) (hfree : s.epFree = true) :
    trySend (reportBoundary s) = { s with
      fbValue := s.reportValue, delta := 0, epFree := false, outputs := s.outputs ++ [reportOf s.reportValue] } := by
  rw [trySend_of_waiting (reportBoundary_fbReady s) (by simpa using hfree), reportBoundary_of_sent hready, ← hready]

theorem nextSofcnt_of_last {s : State} (h : s.sofcnt + 1 = 2 ^ s.cfg.sofShift) : s.nextSofcnt = 0 := by
  rw [State.nextSofcnt, h, Nat.mod_self]

theorem nextSofcnt_of_lt {s : State} (h : s.sofcnt + 1 < 2 ^ s.cfg.sofShift) : s.nextSofcnt = s.sofcnt + 1 :=
  Nat.mod_eq_of_lt h

/-- Away from a boundary a tick only counts: a value that waits finds the endpoint taken, as before the tick. -/
theorem sofTick_of_lt {s : State} (hsent : ¬ (s.fbReady = true ∧ s.epFree = true))
    (h : s.sofcnt + 1 < 2 ^ s.cfg.sofShift) : sofTick s = { s with sofcnt := s.sofcnt + 1 } := by
  have hnext := nextSofcnt_of_lt h
  have hcounts : s.nextSofcnt ≠ 0 := by omega
  have hkeeps : trySend (countTick s) = countTick s := if_neg hsent
  rw [sofTick, if_neg hcounts, hkeeps, countTick, hnext]

theorem sofTick_of_last {s : State} (h : s.sofcnt + 1 = 2 ^ s.cfg.sofShift) :
    sofTick s = trySend (reportBoundary { s with sofcnt := 0 }) := by
  have hnext := nextSofcnt_of_last h
  rw [sofTick, if_pos hnext, countTick, hnext]

/-! ## A run of ticks (44_feedback.md R224, 70_reset_and_hazards.md R360) -/

theorem execAll_replicate_sof (n : Nat) (s : State) : execAll (List.replicate n .sof) s = .next (sofTick^[n] s) := by
  induction n generalizing s with
  | zero => rfl
  | succ n ih => exact ih (sofTick s)

/-- Ticks that stop short of the boundary only count. -/
theorem iterate_sofTick_of_lt {s : State} (hsent : ¬ (s.fbReady = true ∧ s.epFree = true)) {n : Nat}
    (h : s.sofcnt + n < 2 ^ s.cfg.sofShift) : sofTick^[n] s = { s with sofcnt := s.sofcnt + n } := by
  induction n with
  | zero => rfl
  | succ n ih =>
    rw [Function.iterate_succ_apply', ih (by omega)]
    exact sofTick_of_lt hsent h

/-- A whole period of ticks from a count of 0 is the boundary of the state it starts in. -/
theorem iterate_sofTick_period {s : State} (hsent : ¬ (s.fbReady = true ∧ s.epFree = true)) (hzero : s.sofcnt = 0) :
    sofTick^[2 ^ s.cfg.sofShift] s = trySend (reportBoundary s) := by
  obtain ⟨n, hn⟩ := Nat.exists_eq_add_one.mpr (Nat.two_pow_pos s.cfg.sofShift)
  rw [hn, Function.iterate_succ_apply', iterate_sofTick_of_lt hsent (by omega), hzero, zero_add, sofTick_of_last hn.symm,
    ← hzero]

end Machine

open Machine

/-! ## The statements -/

/-- Settles O30: a clamp of a monotone function of `delta`. -/
theorem feedbackValueFollowsDelta : Obligations.FeedbackValueFollowsDelta := by
  intro c r pst hlegal
  have L := legal_facts hlegal
  refine ⟨fun hidle d => fbComputeAt_of_not_playing hidle c r d, fun hplays => ?_⟩
  have hvalue := fbComputeAt_of_playing L hplays r
  have hnomLow := L.fb1 r
  have hnomHigh := L.fb2 r
  refine ⟨c.fbScale r c.fbD, c.half r, fbScale_shiftedBy c r _, half_floorOf c r,
    fun d => ⟨c.fbScale r d, fbScale_shiftedBy c r d, hvalue d⟩, fun d d' hle => ?mono, fbComputeAt_range L pst r, ?least,
    fun hshift => ?middle⟩
  case mono =>
    have hscale := fbScale_mono c r hle
    rw [hvalue, hvalue]
    gcongr
  case least =>
    have hhalf := half_nonneg c r
    rw [hvalue, fbScale_zero]
    omega
  case middle =>
    have hhalf : c.fbScale r (2 ^ c.rbLog2 * 2 ^ c.sofShift / 2) = c.half r := fbScale_half_fbD L (by omega)
    rw [hvalue, hhalf]
    omega

/-- Settles O31: the tick's equation, with the send test decided by the two send flags. -/
theorem sofCountsAndReports : Obligations.SofCountsAndReports := by
  intro s hi
  have hrange := hi.sofcnt_lt
  refine ⟨fun hcount => congrArg _ (sofTick_of_lt hi.sent (by omega)), fun hlast => ?_⟩
  have hboundary := sofTick_of_last hlast
  refine ⟨s.reportValue, reportValue_toNat hi, fun hready => ?unsent, fun hready htaken => ?waits, fun hready hfree => ?sends⟩
  case unsent =>
    have htaken : s.epFree = false := by simpa [hready] using hi.sent
    exact ⟨addSat32 s.cntFblost 1, addSat32_toNat _ _, congrArg _ (hboundary.trans (boundary_overwrites hready htaken))⟩
  case waits => exact congrArg _ (hboundary.trans (boundary_waits hready htaken))
  case sends => exact congrArg _ (hboundary.trans (boundary_sends hready hfree))

/-- Settles O32: the ticks before the boundary change only the count, so the boundary reads the state they started in. -/
theorem reportEveryPeriod : Obligations.ReportEveryPeriod := by
  intro s hi hzero
  refine ⟨fun n hn => ?counts, trySend (reportBoundary s), ?period, by simp [hzero], by simp, ?value, by simp⟩
  case counts => rw [execAll_replicate_sof, iterate_sofTick_of_lt hi.sent (by omega), hzero, zero_add]
  case period => rw [execAll_replicate_sof, iterate_sofTick_period hi.sent hzero]
  case value => rw [trySend_fbValue, reportBoundary_fbValue, reportValue_toNat hi]

/-- Settles O33: the send test at a free endpoint. -/
theorem fbDoneFreesTheEndpoint : Obligations.FbDoneFreesTheEndpoint := fun _ =>
  ⟨fun hready => congrArg Host.Outcome.next (trySend_of_no_value hready),
    fun hready => congrArg Host.Outcome.next (trySend_of_waiting hready rfl)⟩

end Sys2Proof
end

section
/-! SUPPORT. The pump and the stream control (45_pump_control.md): the events of the control commands as equations, a PUMP
that runs and one that finds too little, field by field; then the pipeline of one PUMP by output frame: the upsampled frame
`n*U + p`, each channel's row of stored errors before every frame, the code of every element, and the saturation events as
one sum; then the statements. -/

namespace Sys2Proof

namespace Machine

/-! ## Events by their bits (60_exceptions.md R310, R311) -/

theorem raise_statechg (info : Nat) (s : State) : raise .statechg info s = { s with pend := s.pend ||| 0x80 } := rfl

theorem raise_cfgrej (info : Nat) (s : State) : raise .cfgrej info s = { s with pend := s.pend ||| 0x40 } := rfl

/-! ## CONFIGURE by the pump state (45_pump_control.md R260 to R264) -/

theorem exec_configure_stream {f : Fmt} (hf : f ≠ .none) (r : Rate) (s : State) :
    exec (.configure f r) s = .next (configureStream f r s) := if_neg hf

theorem exec_configure_none (r : Rate) (s : State) : exec (.configure .none r) s = .next (configureStop s) := rfl

/-- The set-up raises STATECHG when it opens a stream, and not when it redoes one (R264). -/
theorem configureStream_of_not_playing {s : State} (h : s.pst = .closed ∨ s.pst = .fill) (f : Fmt) (r : Rate) :
    configureStream f r s =
      { setUp f r s with pst := .fill, pend := if s.pst = .closed then s.pend ||| 0x80 else s.pend } := by
  obtain h | h := h <;> simp only [configureStream, h]
  · rfl
  · rfl

theorem configureStream_of_playing {s : State} (h : s.pst = .running ∨ s.pst = .drain) (f : Fmt) (r : Rate) :
    configureStream f r s = { s with pend := s.pend ||| 0x40 } := by
  obtain h | h := h <;> simp only [configureStream, h, raise_cfgrej]

theorem configureStop_of_running {s : State} (h : s.pst = .running) :
    configureStop s = { s with pst := .drain, pend := s.pend ||| 0x80 } := by
  simp only [configureStop, h, raise_statechg]

theorem configureStop_of_fill {s : State} (h : s.pst = .fill) :
    configureStop s = { enterClosed s with pend := s.pend ||| 0x80 } := by
  simp only [configureStop, h, raise_statechg, enterClosed_pend]

theorem configureStop_of_idle {s : State} (h : s.pst = .closed ∨ s.pst = .drain) : configureStop s = s := by
  obtain h | h := h <;> simp only [configureStop, h]

/-! ## The parts of a PUMP (45_pump_control.md R252 to R255) -/

/-- A saturation count of 0 raises nothing (60_exceptions.md R312). -/
theorem pumpSat_pend (n : Nat) (s : State) : (pumpSat n s).pend = if n = 0 then s.pend else s.pend ||| 0x08 := by
  obtain rfl | hn := Nat.eq_zero_or_pos n
  · rfl
  · rw [pumpSat, if_pos hn, if_neg hn.ne']; rfl

theorem pumpSat_cntSat (n : Nat) (s : State) : CountedUp s.cntSat (pumpSat n s).cntSat n := by
  obtain rfl | hn := Nat.eq_zero_or_pos n
  · have hreg := s.cntSat.isLt
    change s.cntSat.toNat = _
    omega
  · rw [pumpSat, if_pos hn]
    exact addSat32_toNat s.cntSat n

theorem pumpFill_of_both {s : State} {h : BitVec 1} (hfill : s.pst = .fill) (hboth : markFilled s.filled h = 3) :
    pumpFill h s = { s with pst := .running, outEn := true, filled := 0, pend := s.pend ||| 0x80 } := by
  rw [pumpFill, if_pos hfill, if_pos hboth, raise_statechg]

theorem pumpFill_of_one {s : State} {h : BitVec 1} (hfill : s.pst = .fill) (hone : markFilled s.filled h ≠ 3) :
    pumpFill h s = { s with filled := markFilled s.filled h } := by
  rw [pumpFill, if_pos hfill, if_neg hone]

theorem pumpFill_of_not_fill {s : State} (h : BitVec 1) (hfill : s.pst ≠ .fill) : pumpFill h s = s := if_neg hfill

/-- UNDERRUN counts and pends in RUNNING only (R254, R255). -/
theorem pumpShort_eq (s : State) :
    pumpShort s = { s with
      cntUnderrun := if s.pst = .running then addSat32 s.cntUnderrun 1 else s.cntUnderrun
      pend := if s.pst = .running then s.pend ||| 0x01 else s.pend } := by
  unfold pumpShort
  split <;> rfl

/-! ## A PUMP that runs, field by field (45_pump_control.md R252) -/

section
variable (h : BitVec 1) (s : State)

theorem pumpRun_tail : (pumpRun h s).tail = (s.tail + s.chunkBytes) % s.cfg.rbSize := by
  rw [pumpRun, pumpFill_tail, pumpSat_tail]; rfl

theorem pumpRun_bl : (pumpRun h s).bl = shiftBacklog s.cfg (s.cfg.framesPerPump s.rate) s.bl s.pumpFrames := by
  rw [pumpRun, pumpFill_bl, pumpSat_bl]; rfl

theorem pumpRun_nse : (pumpRun h s).nse = s.pumpShaped.rows := by
  rw [pumpRun, pumpFill_nse, pumpSat_nse]; rfl

theorem pumpRun_cntSat : CountedUp s.cntSat (pumpRun h s).cntSat s.pumpSats := by
  rw [pumpRun, pumpFill_cntSat]
  exact pumpSat_cntSat s.pumpSats (pumpData h s)

/-- The bytes outside the half keep their values. -/
theorem pumpRun_outRead_other (L : LegalFacts s.cfg) {a : Nat}
    (ha : a < s.cfg.outAddr h.toNat 0 ∨ s.cfg.outAddr h.toNat 0 + s.cfg.halfBytes ≤ a) :
    (pumpRun h s).outRead a = s.outRead a := by
  have hhalf : 2 * s.pumpShaped.codes.length = s.cfg.halfBytes := by
    rw [pumpShaped_codes_length L, Config.halfBytes, Nat.mul_comm]
  rw [← hhalf] at ha
  simp only [State.outRead, pumpRun_outBuf, pumpRun_resets, writeCodes_read_other ha]

end

section
variable {h : BitVec 1} {s : State}

theorem pumpRun_fills (hfill : s.pst = .fill) (hboth : s.filled ||| (1#2 <<< h.toNat) = 3) :
    (pumpRun h s).pst = .running ∧ (pumpRun h s).outEn = true ∧ (pumpRun h s).filled = 0 ∧
      (pumpRun h s).pend = if s.pumpSats = 0 then s.pend ||| 0x80 else s.pend ||| 0x88 := by
  have hrun := pumpFill_of_both (h := h) (s := pumpSat s.pumpSats (pumpData h s)) (by simpa) (by simpa [markFilled])
  rw [pumpRun, hrun]
  refine ⟨rfl, rfl, rfl, ?_⟩
  change (pumpSat _ _).pend ||| 0x80 = _
  rw [pumpSat_pend, apply_ite (· ||| (0x80 : BitVec 8)), BitVec.or_assoc]
  rfl

theorem pumpRun_marks (hfill : s.pst = .fill) (hone : s.filled ||| (1#2 <<< h.toNat) ≠ 3) :
    (pumpRun h s).pst = .fill ∧ (pumpRun h s).outEn = s.outEn ∧
      (pumpRun h s).filled = s.filled ||| (1#2 <<< h.toNat) ∧
      (pumpRun h s).pend = if s.pumpSats = 0 then s.pend else s.pend ||| 0x08 := by
  have hrun := pumpFill_of_one (h := h) (s := pumpSat s.pumpSats (pumpData h s)) (by simpa) (by simpa [markFilled])
  rw [pumpRun, hrun]
  exact ⟨by simpa, by simp, by simp [markFilled], pumpSat_pend _ _⟩

theorem pumpRun_plays (hplays : s.pst ≠ .fill) :
    (pumpRun h s).pst = s.pst ∧ (pumpRun h s).outEn = s.outEn ∧ (pumpRun h s).filled = s.filled ∧
      (pumpRun h s).pend = if s.pumpSats = 0 then s.pend else s.pend ||| 0x08 := by
  rw [pumpRun, pumpFill_of_not_fill h (by simpa)]
  exact ⟨by simp, by simp, by simp, pumpSat_pend _ _⟩

end

/-! ## PUMP with a draw (45_pump_control.md R252, R254) -/

theorem exec_pump {s : State} (hopen : s.pst ≠ .closed) (h : BitVec 1) :
    exec (.pump h) s = .next (pumpWith (drawView s.lagC s.draws) h s) := if_neg hopen

section
variable {s : State} (hi : s.Inv) {k : Nat} (hk : k ≤ s.lagC) (h : BitVec 1)
include hi hk

theorem pumpWith_of_chunk (hchunk : s.chunkBytes ≤ s.countC + k) : pumpWith k h s = pumpRun h (refreshHeadCv k s) :=
  pumpNow_of_chunk h (by rw [countC_refresh hi hk]; exact hchunk)

theorem pumpWith_of_short (hshort : s.countC + k < s.chunkBytes) : pumpWith k h s = pumpShort (refreshHeadCv k s) :=
  pumpNow_of_short h (by rw [countC_refresh hi hk]; exact hshort)

/-- A PUMP whose refreshed view shows a chunk does all that R252 and R253 list. -/
theorem pumpWith_ran (hchunk : s.chunkBytes ≤ s.countC + k) : PumpRan s (pumpWith k h s) k h := by
  have L := legal_facts hi.legal
  rw [pumpWith_of_chunk hi hk h hchunk]
  exact
    { view := pumpRun_headCv h _
      tail := pumpRun_tail h _
      bl := pumpRun_bl h _
      nse := pumpRun_nse h _
      written := fun i hlt => by
        have hlen : i < s.pumpShaped.codes.length := by rwa [pumpShaped_codes_length L]
        rw [pumpRun_outElem (s := refreshHeadCv k s) h hlen, List.getElem?_eq_getElem hlen]
        rfl
      kept := fun a ha => pumpRun_outRead_other h (refreshHeadCv k s) L ha
      sat := pumpRun_cntSat h _
      fills := pumpRun_fills (s := refreshHeadCv k s)
      marks := pumpRun_marks (s := refreshHeadCv k s)
      plays := pumpRun_plays (s := refreshHeadCv k s) }

/-- The frame of a PUMP that runs (R252). -/
theorem pumpWith_keeps (hchunk : s.chunkBytes ≤ s.countC + k) : PumpKeeps s (pumpWith k h s) := by
  have hring := ringRead_of_same (pumpWith_cfg k h s) (pumpWith_resets k h s) (pumpWith_mem k h s)
  have hunderrun : (pumpWith k h s).cntUnderrun = s.cntUnderrun := by
    rw [pumpWith_of_chunk hi hk h hchunk]
    simp
  simp [PumpKeeps, SameReport, SameOutside, hring, hunderrun]

end

/-! ## Transitions (45_pump_control.md R251) -/

/-- A PUMP changes the pump state only in FILL, by marking the second half (R253). -/
theorem pumpNow_pst_cases (h : BitVec 1) (s : State) :
    (pumpNow h s).pst = s.pst ∨
      (s.pst = .fill ∧ s.filled ||| (1#2 <<< h.toNat) = 3 ∧ (pumpNow h s).pst = .running ∧ (pumpNow h s).outEn = true ∧
        (pumpNow h s).filled = 0 ∧ (pumpNow h s).pend.getLsbD 7 = true) := by
  obtain hshort | hchunk := Nat.lt_or_ge s.countC s.chunkBytes
  · rw [pumpNow_of_short h hshort]
    exact .inl (pumpShort_pst s)
  rw [pumpNow_of_chunk h hchunk]
  by_cases hfill : s.pst = .fill
  case neg => exact .inl (pumpRun_plays hfill).1
  by_cases hboth : s.filled ||| (1#2 <<< h.toNat) = 3
  case neg => exact .inl ((pumpRun_marks hfill hboth).1.trans hfill.symm)
  obtain ⟨hpst, hout, hfilled, hpend⟩ := pumpRun_fills hfill hboth
  refine .inr ⟨hfill, hboth, hpst, hout, hfilled, ?_⟩
  rw [hpend]
  split <;> simp

/-- Every other command leaves the pump state alone. -/
theorem exec_pst_of_other {i : Instr} {s t : State} (hconf : ∀ f r, i ≠ .configure f r) (hpump : ∀ h, i ≠ .pump h)
    (hdone : i ≠ .outDone) (h : exec i s = .next t) : t.pst = s.pst := by
  have hcase := exec_next_cases h
  cases i with
  | configure f r => exact absurd rfl (hconf f r)
  | pump half => exact absurd rfl (hpump half)
  | outDone => exact absurd rfl hdone
  | csrRead a => rw [show t = _ from hcase]; split <;> simp
  | _ => simp [show t = _ from hcase]

/-- CONFIGURE NONE changes the pump state in FILL and RUNNING only (R261). -/
theorem configureStop_pst_cases (s : State) : (configureStop s).pst = s.pst ∨ s.pst = .fill ∨ s.pst = .running := by
  cases hpst : s.pst with
  | closed => exact .inl (by rw [configureStop_of_idle (.inl hpst), hpst])
  | fill => exact .inr (.inl rfl)
  | running => exact .inr (.inr rfl)
  | drain => exact .inl (by rw [configureStop_of_idle (.inr hpst), hpst])

/-- A streaming CONFIGURE changes the pump state in CLOSED only: FILL it redoes, and while playing it is refused (R263,
R264). -/
theorem configureStream_pst_cases (f : Fmt) (r : Rate) (s : State) :
    (configureStream f r s).pst = s.pst ∨ s.pst = .closed := by
  cases hpst : s.pst with
  | closed => exact .inr rfl
  | fill => exact .inl (by rw [configureStream_of_not_playing (.inr hpst)])
  | running => exact .inl (by rw [configureStream_of_playing (.inl hpst), hpst])
  | drain => exact .inl (by rw [configureStream_of_playing (.inr hpst), hpst])

/-! ## The upsampled frames (42_upsampler.md R181, R182) -/

/-- Blocks of `u` entries in a row: entry `p` of block `n` stands at `n*u + p`. -/
theorem getElem?_flatMap_range {α : Type} {u : Nat} {f : Nat → List α} (hf : ∀ n, (f n).length = u) {blocks n p : Nat}
    (hn : n < blocks) (hp : p < u) : ((List.range blocks).flatMap f)[n * u + p]? = (f n)[p]? := by
  have hlen (k : Nat) : ((List.range k).flatMap f).length = k * u := by simp [List.length_flatMap, hf]
  induction blocks with
  | zero => omega
  | succ k ih =>
    rw [List.range_succ, List.flatMap_append, List.flatMap_singleton]
    obtain hlt | rfl := Nat.lt_succ_iff_lt_or_eq.mp hn
    · have hblock : (n + 1) * u ≤ k * u := Nat.mul_le_mul_right u hlt
      rw [List.getElem?_append_left (by rw [hlen]; rw [Nat.succ_mul] at hblock; omega), ih hlt]
    · rw [List.getElem?_append_right (by rw [hlen]; omega), hlen, Nat.add_sub_cancel_left]

/-- Output frame `n*U + p` is the floor of phase `p` over the window at input frame `n`. -/
theorem sampleAt_upsampleRaw (cfg : Config) (r : Rate) (bl : List (List (BitVec 32))) (x : List (List Int)) {n p c : Nat}
    (hn : n < cfg.framesPerPump r) (hp : p < (cfg.at r).u) (hc : c < cfg.nch) :
    sampleAt (upsampleRaw cfg r bl x) (n * (cfg.at r).u + p) c = floorShift (firAcc cfg r bl x n p c) cfg.coefFrac := by
  have hframe := getElem?_flatMap_range (u := (cfg.at r).u)
    (f := fun n => (List.range (cfg.at r).u).map fun p =>
      (List.range cfg.nch).map fun c => floorShift (firAcc cfg r bl x n p c) cfg.coefFrac) (by simp) hn hp
  rw [sampleAt, List.getD_eq_getElem?_getD (l := upsampleRaw cfg r bl x), upsampleRaw, hframe]
  simp [hp, hc]

/-- The clamp acts on each sample by itself (R181). -/
theorem sampleAt_clampFrames (raw : List (List Int)) (m c : Nat) :
    sampleAt (clampFrames raw) m c = sat 32 (sampleAt raw m c) := by
  simp only [sampleAt, clampFrames, List.getD_eq_getElem?_getD, List.getElem?_map]
  cases raw[m]? with
  | none => rfl
  | some f => simp only [Option.map_some, Option.getD_some, List.getElem?_map]; cases f[c]? <;> rfl

/-- The gained frames of a pump are internal samples (41_reframer.md R166). -/
theorem pumpFrames_range {s : State} (hi : s.Inv) (hopen : s.pst ≠ .closed) : ∀ f ∈ s.pumpFrames, ∀ v ∈ f, IsSample v := by
  intro f hf
  have L := legal_facts hi.legal
  have hfmt := fmt_ne_none hi hopen
  obtain ⟨i, hlt, rfl⟩ := List.getElem_of_mem hf
  have hframe := pumpFrames_getElem? hfmt (pumpFrames_length hfmt ▸ hlt)
  rw [List.getElem?_eq_getElem hlt, Option.some_inj] at hframe
  rw [hframe]
  exact (gainFrame_range L.nch (gainStep_le L) (wireSample_range s i 0) (wireSample_range s i 1)).2

/-! ## The shaper frame by frame (43_noise_shaper.md R203) -/

/-- The stored errors of channel `c` before output frame `m`: what shaping the earlier frames left. -/
def rowBefore (cfg : Config) (rows : List (List (BitVec 32))) (fs : List (List Int)) (m c : Nat) : List (BitVec 32) :=
  (shapeFrames cfg rows (fs.take m)).rows.getD c []

/-- Shape of channel `c` in output frame `m` of a run. -/
def shapedAt (cfg : Config) (rows : List (List (BitVec 32))) (fs : List (List Int)) (m c : Nat) : Shaped :=
  shape cfg (rowBefore cfg rows fs m c) (sampleAt fs m c)

section
variable (cfg : Config) (rows : List (List (BitVec 32)))

/-- The first frame is shaped with the rows the run starts from. -/
theorem shapeFrame_eq_map_shapedAt (f : List Int) (fs : List (List Int)) :
    shapeFrame cfg rows f = (List.range cfg.nch).map (shapedAt cfg rows (f :: fs) 0) := rfl

/-- The later frames are a run from the rows the first frame left. -/
theorem shapedAt_cons_succ (f : List Int) (fs : List (List Int)) (m c : Nat) :
    shapedAt cfg rows (f :: fs) (m + 1) c = shapedAt cfg ((shapeFrame cfg rows f).map Shaped.row) fs m c := rfl

theorem rowBefore_all (fs : List (List Int)) (c : Nat) :
    rowBefore cfg rows fs fs.length c = (shapeFrames cfg rows fs).rows.getD c [] := by
  rw [rowBefore, List.take_length]

/-- Each call leaves its channel's row to the next frame. -/
theorem rowBefore_succ {fs : List (List Int)} {m c : Nat} (hm : m < fs.length) (hc : c < cfg.nch) :
    rowBefore cfg rows fs (m + 1) c = (shapedAt cfg rows fs m c).row := by
  induction fs generalizing rows m with
  | nil => simp at hm
  | cons f fs ih =>
    cases m with
    | zero =>
      change ((shapeFrame cfg rows f).map Shaped.row).getD c [] = _
      rw [List.getD_eq_getElem?_getD, List.getElem?_map, shapeFrame_channel cfg rows f hc]
      rfl
    | succ m => exact ih _ (Nat.lt_of_succ_lt_succ hm)

/-- The code of channel `c` in output frame `m` is element `m*NCH + c` (45_pump_control.md R252). -/
theorem shapeFrames_codes_getElem? {fs : List (List Int)} {m c : Nat} (hm : m < fs.length) (hc : c < cfg.nch) :
    (shapeFrames cfg rows fs).codes[m * cfg.nch + c]? = some (shapedAt cfg rows fs m c).code := by
  induction fs generalizing rows m with
  | nil => simp at hm
  | cons f fs ih =>
    have hlen : ((shapeFrame cfg rows f).map Shaped.code).length = cfg.nch := by simp [shapeFrame]
    rw [shapeFrames]
    cases m with
    | zero =>
      rw [Nat.zero_mul, Nat.zero_add, List.getElem?_append_left (by omega), List.getElem?_map,
        shapeFrame_channel cfg rows f hc]
      rfl
    | succ m =>
      have hpos : (m + 1) * cfg.nch + c = cfg.nch + (m * cfg.nch + c) := by rw [Nat.succ_mul]; omega
      rw [hpos, List.getElem?_append_right (by omega), hlen, Nat.add_sub_cancel_left]
      exact ih _ (Nat.lt_of_succ_lt_succ hm)

/-- The events of a run are those of all its calls (R202). -/
theorem shapeFrames_sats_eq_sum (fs : List (List Int)) :
    (shapeFrames cfg rows fs).sats =
      ∑ m ∈ Finset.range fs.length, ∑ c ∈ Finset.range cfg.nch, (shapedAt cfg rows fs m c).sats := by
  induction fs generalizing rows with
  | nil => rfl
  | cons f fs ih =>
    have hfirst : ((shapeFrame cfg rows f).map Shaped.sats).sum =
        ∑ c ∈ Finset.range cfg.nch, (shapedAt cfg rows (f :: fs) 0 c).sats := by
      rw [shapeFrame_eq_map_shapedAt cfg rows f fs, List.map_map]
      rfl
    rw [List.length_cons, Finset.sum_range_succ', Nat.add_comm]
    exact congrArg₂ (· + ·) hfirst (ih _)

end

/-! ## Clamps counted (42_upsampler.md R184) -/

theorem countP_eq_sum_range (p : Int → Bool) (l : List Int) :
    l.countP p = ∑ c ∈ Finset.range l.length, if p (l.getD c 0) then 1 else 0 := by
  induction l with
  | nil => rfl
  | cons v l ih => rw [List.countP_cons, List.length_cons, Finset.sum_range_succ', ih]; rfl

/-- One event for each sample that the clamp changes. -/
theorem clampEvents_eq_sum {nch : Nat} {raw : List (List Int)} (hraw : ∀ f ∈ raw, f.length = nch) :
    clampEvents raw = ∑ m ∈ Finset.range raw.length, ∑ c ∈ Finset.range nch,
      if sat 32 (sampleAt raw m c) ≠ sampleAt raw m c then 1 else 0 := by
  induction raw with
  | nil => rfl
  | cons f raw ih =>
    obtain ⟨hf, hrest⟩ := List.forall_mem_cons.mp hraw
    have hcons : clampEvents (f :: raw) = (f.countP fun v => sat 32 v != v) + clampEvents raw := rfl
    rw [hcons, ih hrest, List.length_cons, Finset.sum_range_succ', countP_eq_sum_range, hf, Nat.add_comm]
    simp [sampleAt]

/-! ## The pipeline of one PUMP (45_pump_control.md R252) -/

section
variable {s : State} (L : LegalFacts s.cfg)
include L

theorem pumpRaw_length : s.pumpRaw.length = s.cfg.outFrames := (upsampleRaw_length s.cfg L _ _ _).1

theorem clampFrames_pumpRaw_length : (clampFrames s.pumpRaw).length = s.cfg.outFrames := by
  rw [clampFrames, List.length_map, pumpRaw_length L]

end

theorem shapedAt_clampFrames (cfg : Config) (rows : List (List (BitVec 32))) (raw : List (List Int)) (m c : Nat) :
    shapedAt cfg rows (clampFrames raw) m c =
      shape cfg (rowBefore cfg rows (clampFrames raw) m c) (max (-2 ^ 31) (min (2 ^ 31 - 1) (sampleAt raw m c))) := by
  rw [shapedAt, sampleAt_clampFrames, sat32_eq_max_min]

/-- The two bytes of element `m*NCH + c` hold the code of channel `c` in output frame `m` (20_memory.md R63). -/
theorem pumpRun_element {s : State} (L : LegalFacts s.cfg) (h : BitVec 1) {m c : Nat} (hm : m < s.cfg.outFrames)
    (hc : c < s.cfg.nch) :
    let a := s.cfg.outAddr h.toNat (m * s.cfg.nch + c)
    (((pumpRun h s).outRead a).toNat : Int) + 256 * ((pumpRun h s).outRead (a + 1)).toNat =
      (shapedAt s.cfg s.nse (clampFrames s.pumpRaw) m c).code := by
  intro a
  have hcode : s.pumpShaped.codes[m * s.cfg.nch + c]? = some (shapedAt s.cfg s.nse (clampFrames s.pumpRaw) m c).code :=
    shapeFrames_codes_getElem? s.cfg s.nse ((clampFrames_pumpRaw_length L).symm ▸ hm) hc
  obtain ⟨hlt, hcode⟩ := List.getElem?_eq_some_iff.mp hcode
  have hword : (pumpRun h s).outRead (a + 1) ++ (pumpRun h s).outRead a =
      BitVec.ofInt 16 (shapedAt s.cfg s.nse (clampFrames s.pumpRaw) m c).code := by
    have helem := pumpRun_outElem (s := s) h hlt
    rwa [State.outElem, pumpRun_cfg, hcode] at helem
  obtain ⟨hlow, hhigh⟩ := shape_code_range L (rowBefore s.cfg s.nse (clampFrames s.pumpRaw) m c)
    (sampleAt (clampFrames s.pumpRaw) m c)
  have hduty : ((BitVec.ofInt 16 (shapedAt s.cfg s.nse (clampFrames s.pumpRaw) m c).code).toNat : Int) = _ :=
    duty_code_toNat L hlow hhigh
  rw [← hword, toNat_append_byte] at hduty
  exact_mod_cast hduty

/-- The stages of a PUMP that runs, with the model's own upsampled samples and rows. -/
theorem pumpRun_stages {s : State} (hi : s.Inv) (hopen : s.pst ≠ .closed) (h : BitVec 1) :
    PumpStages s (pumpRun h s) h (sampleAt s.pumpRaw) (rowBefore s.cfg s.nse (clampFrames s.pumpRaw)) := by
  have L := legal_facts hi.legal
  have hlen := clampFrames_pumpRaw_length L
  constructor
  case upsampled =>
    intro n hn p hp c hc
    rw [State.pumpRaw, sampleAt_upsampleRaw s.cfg s.rate s.bl s.pumpFrames hn hp hc]
    exact floorShift_floorOf _ _
  case first => exact fun c _ => rfl
  case threaded =>
    intro m hm c hc
    rw [rowBefore_succ s.cfg s.nse (hlen.symm ▸ hm) hc, shapedAt_clampFrames]
  case last =>
    rw [pumpRun_nse]
    refine ⟨(shapeFrames_rows_shape s.cfg s.nse (clampFrames s.pumpRaw) hi.nse_shape).1, fun c _ => ?_⟩
    rw [← hlen, rowBefore_all]
    rfl
  case written =>
    intro m hm c hc
    rw [← shapedAt_clampFrames]
    exact pumpRun_element L h hm hc
  case backlog =>
    intro c hc j hj hlast
    obtain ⟨hlow, hhigh⟩ := window_range (pumpFrames_range hi hopen) s.bl (s.cfg.framesPerPump s.rate) c j
    have hreg := regAt_shiftBacklog hc hj (by omega) (s.cfg.framesPerPump s.rate) s.bl s.pumpFrames
    rw [toReg_toInt hlow hhigh] at hreg
    rw [pumpRun_bl]
    exact hreg
  case events =>
    have hclamps := clampEvents_eq_sum (upsampleRaw_length s.cfg L s.rate s.bl s.pumpFrames).2
    have hshaper := shapeFrames_sats_eq_sum s.cfg s.nse (clampFrames s.pumpRaw)
    rw [hlen] at hshaper
    change clampEvents s.pumpRaw = ∑ m ∈ Finset.range s.pumpRaw.length, _ at hclamps
    rw [pumpRaw_length L] at hclamps
    simp only [Finset.sum_add_distrib, ← shapedAt_clampFrames]
    simp only [← sat32_eq_max_min]
    exact congrArg₂ (· + ·) hclamps hshaper
  case counted => exact pumpRun_cntSat h s

/-- A PUMP that leaves a whole chunk in view ran the pipeline, whatever its draw was. -/
theorem exec_pump_of_chunk_in_view {s t : State} {h : BitVec 1} (hi : s.Inv) (hopen : s.pst ≠ .closed)
    (hexec : exec (.pump h) s = .next t) (hchunk : (s.chunkBytes : Int) ≤ ((t.headCv : Int) - s.tail) % s.cfg.rbSize) :
    ∃ k ≤ s.lagC, t = pumpRun h (refreshHeadCv k s) := by
  rw [exec_pump hopen] at hexec
  obtain rfl := Host.Outcome.next.inj hexec
  refine ⟨_, drawView_le _ _, pumpNow_of_chunk h ?_⟩
  rwa [pumpWith, pumpNow_headCv, ← modDist_cast (rbSize_pos hi), Int.ofNat_le] at hchunk

end Machine

open Machine

/-! ## The statements -/

/-- Settles O36: the dispatch's first branch. -/
theorem pumpInClosedDoesNothing : Obligations.PumpInClosedDoesNothing := fun _ _ hclosed => if_pos hclosed

/-- Settles O35: the draw taken shows a whole chunk or does not. -/
theorem pumpRunsOrLeavesEverything : Obligations.PumpRunsOrLeavesEverything := by
  intro s h hi hopen
  have hk : drawView s.lagC s.draws ≤ s.lagC := drawView_le _ _
  refine ⟨_, hk, _, exec_pump hopen h, fun hchunk => ⟨pumpWith_ran hi hk h hchunk, pumpWith_keeps hi hk h hchunk⟩,
    fun hshort => ⟨if s.pst = .running then addSat32 s.cntUnderrun 1 else s.cntUnderrun, ?_, ?_⟩⟩
  · split
    · exact addSat32_toNat _ _
    · have := s.cntUnderrun.isLt
      change _ = min _ _
      omega
  · rw [pumpWith_of_short hi hk h hshort, pumpShort_eq]
    rfl

/-- Settles O34: a chunk in view stays in view whatever more the draw shows. -/
theorem pumpRunsThePipeline : Obligations.PumpRunsThePipeline := by
  intro s h hi hopen hchunk
  obtain ⟨k, hk, t, hexec, hruns, -⟩ := pumpRunsOrLeavesEverything s h hi hopen
  exact ⟨pumpShaped_codes_length (legal_facts hi.legal), k, hk, t, hexec, hruns (hchunk.trans (Nat.le_add_right _ _))⟩

/-- Settles O56: the stages of the state with its view refreshed, whose pipeline is that of the state itself. -/
theorem pumpStagesCompose : Obligations.PumpStagesCompose := by
  intro s t h hi hopen hexec hchunk
  obtain ⟨k, hk, rfl⟩ := exec_pump_of_chunk_in_view hi hopen hexec hchunk
  exact ⟨_, _, { pumpRun_stages (refreshHeadCv_inv hi hk) hopen h with }⟩

/-- Settles O38: in DRAIN, the entry into CLOSED with its event; otherwise the same state. -/
theorem outDoneClosesADrainingStream : Obligations.OutDoneClosesADrainingStream := fun _ =>
  ⟨fun hdrain => if_pos hdrain, fun hother => if_neg hother⟩

/-- Settles O39: the set-up's fields, with the event by the state it started from. -/
theorem configureSetsUpAStream : Obligations.ConfigureSetsUpAStream := by
  intro s f r hf hpst
  rw [exec_configure_stream hf, configureStream_of_not_playing hpst]
  rfl

/-- Settles O40: the refusal is one event. -/
theorem configureIsRefusedWhilePlaying : Obligations.ConfigureIsRefusedWhilePlaying := by
  intro s f r hf hpst
  rw [exec_configure_stream hf, configureStream_of_playing hpst]

/-- Settles O41, by the pump state. -/
theorem configureNoneStopsTheStream : Obligations.ConfigureNoneStopsTheStream := by
  intro s r
  rw [exec_configure_none]
  refine ⟨fun hrun => ?_, fun hfill => ?_, fun hidle => ?_⟩
  · rw [configureStop_of_running hrun]
  · rw [configureStop_of_fill hfill]; rfl
  · rw [configureStop_of_idle hidle]

/-- Settles O42: CONFIGURE, PUMP and OUT_DONE alone write the pump state, each by its own rows. -/
theorem onlyTheListedTransitions : Obligations.OnlyTheListedTransitions := by
  intro i s t hexec hchanged
  cases i with
  | configure f r =>
    by_cases hf : f = .none
    · subst hf
      rw [exec_configure_none, Host.Outcome.next.injEq] at hexec
      subst hexec
      obtain hsame | hfill | hrun := configureStop_pst_cases s
      · exact absurd hsame hchanged
      · rw [configureStop_of_fill hfill]; simp [hfill]
      · rw [configureStop_of_running hrun]; simp [hrun]
    · rw [exec_configure_stream hf, Host.Outcome.next.injEq] at hexec
      subst hexec
      obtain hsame | hclosed := configureStream_pst_cases f r s
      · exact absurd hsame hchanged
      · rw [configureStream_of_not_playing (.inl hclosed)]; simp [hclosed, hf]
  | pump h =>
    by_cases hopen : s.pst = .closed
    · rw [pumpInClosedDoesNothing s h hopen, Host.Outcome.next.injEq] at hexec
      exact absurd (by rw [hexec]) hchanged
    · rw [exec_pump hopen, Host.Outcome.next.injEq] at hexec
      subst hexec
      obtain hsame | ⟨hfill, hboth, hpst, hout, hfilled, hpend⟩ :=
        pumpNow_pst_cases h (refreshHeadCv (drawView s.lagC s.draws) s)
      · exact absurd hsame hchanged
      · exact ⟨hpend, .inr (.inr (.inr (.inl ⟨hfill, hpst, ⟨h, rfl, hboth⟩, hout, hfilled⟩)))⟩
  | outDone =>
    obtain ⟨hdrain, hother⟩ := outDoneClosesADrainingStream s
    by_cases hpst : s.pst = .drain
    · rw [hdrain hpst, Host.Outcome.next.injEq] at hexec
      subst hexec
      simp [hpst]
    · rw [hother hpst, Host.Outcome.next.injEq] at hexec
      exact absurd (by rw [hexec]) hchanged
  | _ => exact absurd (exec_pst_of_other (by simp) (by simp) (by simp) hexec) hchanged

/-- Settles O43: gain 0 while muted, and the table's entry otherwise. -/
theorem setMuteWritesMute : Obligations.SetMuteWritesMute := by
  intro s m
  refine ⟨_, rfl, rfl, fun hm b x hx v hv => ?_, fun hm => ?_⟩
  · obtain ⟨lr, -, rfl⟩ := List.mem_map.mp hx
    rw [gainStep_of_mute hm] at hv
    exact gainFrame_zero _ lr v hv
  · exact if_neg (by simp [hm])

/-- Settles O44: the table's last entry is 0. -/
theorem setAttenClampsTheStep : Obligations.SetAttenClampsTheStep := by
  intro s step
  refine ⟨_, rfl, rfl, fun hlegal hstep => ?_⟩
  have hlast := (legal_facts hlegal).gainLast
  unfold State.gainStep
  split
  · rfl
  · rw [Nat.min_eq_right hstep, List.getD_eq_getElem?_getD]
    change (s.cfg.gain[s.cfg.attenMax]?).getD 0 = 0
    rw [hlast, Option.getD_some]

end Sys2Proof
end

section
/-! SUPPORT. CSR_READ, SET_IE and ACK as equations (46_csr_ops.md R291 to R293) and the mapped addresses (10_state.md
R33); the interrupt-request level bit by bit (60_exceptions.md R313); each register as the number its fields make
(10_state.md R33, 46_csr_ops.md R294); then the statements of 46_csr_ops.md. -/

namespace Sys2Proof

namespace Machine

/-! ## The commands as equations (46_csr_ops.md R291 to R293) -/

theorem exec_csrRead_of_some {s : State} {a : BitVec 8} {v : Word} (h : s.csrValue? a = some v) :
    exec (.csrRead a) s = .next (respond .control v s) := by
  simp only [exec, execCsrRead, h]

theorem exec_csrRead_of_none {s : State} {a : BitVec 8} (h : s.csrValue? a = none) :
    exec (.csrRead a) s = .next (respond .control 0 (raise .illegal a.toNat s)) := by
  simp only [exec, execCsrRead, h]

theorem exec_setIe (m : BitVec 9) (s : State) : exec (.setIe m) s = .next { s with ie := m } := rfl

theorem exec_ack (m : BitVec 8) (s : State) : exec (.ack m) s = .next (clearPending m s) := rfl

/-! ## The mapped addresses (10_state.md R33, R34) -/

theorem csrValue?_isSome_iff (s : State) (a : BitVec 8) :
    (s.csrValue? a).isSome = true ↔ a.toNat ≤ 0x0D ∨ (0x10 ≤ a.toNat ∧ a.toNat ≤ 0x14) := by
  unfold State.csrValue?
  split
  case h_20 => simp only [Option.isSome_none, Bool.false_eq_true, false_iff, imp_false] at *; omega
  all_goals simp only [Option.isSome_some, true_iff]; omega

/-! ## The interrupt-request level (60_exceptions.md R313) -/

/-- Bit 8 is FBRDY, above the pending bits (10_state.md R33). -/
theorem pending_getLsbD (s : State) (i : Nat) :
    s.pending.getLsbD i = if i = 8 then s.fbReady else s.pend.getLsbD i :=
  BitVec.getLsbD_cons s.fbReady s.pend i

theorem irq_iff_exists (s : State) : s.irq = true ↔ ∃ i, s.pending.getLsbD i = true ∧ s.ie.getLsbD i = true := by
  simp [State.irq, BitVec.zero_iff_eq_false]

/-- The level of R313: an enabled pending bit, or `fb_ready` under `ie[8]`. -/
theorem irq_iff (s : State) :
    s.irq = true ↔
      (∃ i < 8, s.pend.getLsbD i = true ∧ s.ie.getLsbD i = true) ∨ (s.fbReady = true ∧ s.ie.getLsbD 8 = true) := by
  rw [irq_iff_exists]
  constructor
  · rintro ⟨i, hpending, hie⟩
    rw [pending_getLsbD] at hpending
    split at hpending
    case isTrue h8 => exact .inr ⟨hpending, h8 ▸ hie⟩
    case isFalse => exact .inl ⟨i, BitVec.lt_of_getLsbD hpending, hpending, hie⟩
  · rintro (⟨i, hi, hpend, hie⟩ | ⟨hready, hie⟩)
    · exact ⟨i, by rw [pending_getLsbD, if_neg (by omega), hpend], hie⟩
    · exact ⟨8, by rw [pending_getLsbD, if_pos rfl, hready], hie⟩

/-! ## A register as the number of its fields (10_state.md R33) -/

theorem toNat_ofNat_of_lt {w v : Nat} (h : v < 2 ^ w) : (BitVec.ofNat w v).toNat = v := Nat.mod_eq_of_lt h

theorem toNat_append_field {m n : Nat} (hi : BitVec m) (lo : BitVec n) :
    (hi ++ lo).toNat = lo.toNat ||| hi.toNat <<< n := by
  rw [BitVec.toNat_append, Nat.or_comm]

/-- A register of one field at its low end. -/
theorem toNat_zero_extended {m n : Nat} (lo : BitVec n) : (0#m ++ lo).toNat = lo.toNat := by
  rw [toNat_append_field, BitVec.toNat_zero, Nat.zero_shiftLeft, Nat.or_zero]

section
variable {c : Config} (L : LegalFacts c)
include L

theorem csrParam0_toNat :
    (csrParam0 c).toNat =
      (c.rbLog2 ||| c.sofShift <<< 5 ||| c.pwmBits <<< 9 ||| c.nsOrder <<< 14 ||| c.nch <<< 17) := by
  have hrb : c.rbLog2 < 2 ^ 5 := by have := L.rb; omega
  have hss : c.sofShift < 2 ^ 4 := by have := L.ss; omega
  have hpw : c.pwmBits < 2 ^ 5 := by have := L.pw; omega
  have hns : c.nsOrder < 2 ^ 3 := by have := L.ns; omega
  have hnch : c.nch < 2 ^ 2 := by have := L.nch; omega
  simp only [csrParam0, toNat_append_field, toNat_ofNat_of_lt hrb, toNat_ofNat_of_lt hss, toNat_ofNat_of_lt hpw,
    toNat_ofNat_of_lt hns, toNat_ofNat_of_lt hnch, BitVec.toNat_zero, Nat.zero_shiftLeft, Nat.or_zero,
    Nat.shiftLeft_or_distrib, ← Nat.shiftLeft_add, Nat.or_assoc]

theorem csrParam1_toNat :
    (csrParam1 c).toNat = (c.normal.u ||| c.double.u <<< 8 ||| c.phaseLen <<< 16) := by
  have hnormal : c.normal.u < 2 ^ 8 := Nat.lt_succ_of_le (L.u .normal)
  have hdouble : c.double.u < 2 ^ 8 := Nat.lt_succ_of_le (L.u .double)
  have hphase : c.phaseLen < 2 ^ 16 := Nat.lt_succ_of_le L.p
  simp only [csrParam1, toNat_append_field, toNat_ofNat_of_lt hnormal, toNat_ofNat_of_lt hdouble,
    toNat_ofNat_of_lt hphase, Nat.shiftLeft_or_distrib, ← Nat.shiftLeft_add, Nat.or_assoc]

theorem csrParam2_toNat : (csrParam2 c).toNat = (c.outFrames ||| c.attenMax <<< 16) := by
  have hframes : c.outFrames < 2 ^ 16 := Nat.lt_succ_of_le L.of
  have hmax : c.attenMax < 2 ^ 8 := Nat.lt_succ_of_le L.am
  simp only [csrParam2, toNat_append_field, toNat_ofNat_of_lt hframes, toNat_ofNat_of_lt hmax, BitVec.toNat_zero,
    Nat.zero_shiftLeft, Nat.or_zero]

end

theorem csrStatus_toNat (s : State) :
    s.csrStatus.toNat = (s.pst.code.toNat ||| s.filled.toNat <<< 2 ||| s.outEn.toNat <<< 4 ||| s.fbReady.toNat <<< 5
      ||| s.epFree.toNat <<< 6 ||| s.irq.toNat <<< 7) := by
  simp only [State.csrStatus, toNat_append_field, BitVec.toNat_ofBool, BitVec.toNat_zero, Nat.zero_shiftLeft,
    Nat.or_zero, Nat.shiftLeft_or_distrib, ← Nat.shiftLeft_add, Nat.or_assoc]

theorem pending_toNat (s : State) : s.pending.toNat = (s.pend.toNat ||| s.fbReady.toNat <<< 8) := by
  rw [State.pending, toNat_append_field, BitVec.toNat_ofBool]

theorem csrValue?_format_toNat (s : State) :
    (s.csrValue? 0x05).map BitVec.toNat = some (s.fmt.code.toNat ||| s.rate.code.toNat <<< 3) := by
  change some (0#28 ++ s.rate.code ++ s.fmt.code).toNat = _
  simp only [toNat_append_field, BitVec.toNat_zero, Nat.zero_shiftLeft, Nat.or_zero]

section
variable {s : State} (hi : s.Inv)
include hi

theorem csrValue?_gain_toNat : (s.csrValue? 0x06).map BitVec.toNat = some (s.mute.toNat ||| s.atten <<< 8) := by
  have hatten : s.atten < 2 ^ 8 := Nat.lt_succ_of_le (hi.r38.f_attenuation.trans (legal_facts hi.legal).am)
  change some (0#16 ++ BitVec.ofNat 8 s.atten ++ 0#7 ++ BitVec.ofBool s.mute).toNat = _
  simp only [toNat_append_field, toNat_ofNat_of_lt hatten, BitVec.toNat_ofBool, BitVec.toNat_zero, Nat.zero_shiftLeft,
    Nat.zero_or, Nat.or_zero, ← Nat.shiftLeft_add]

theorem csrValue?_pointers_toNat : (s.csrValue? 0x07).map BitVec.toNat = some (s.head ||| s.tail <<< 16) := by
  have hsize := rbSize_le hi
  have hhead : s.head < 2 ^ 16 := hi.head_lt.trans_le hsize
  have htail : s.tail < 2 ^ 16 := hi.tail_lt.trans_le hsize
  change some (BitVec.ofNat 16 s.tail ++ BitVec.ofNat 16 s.head).toNat = _
  rw [toNat_append_field, toNat_ofNat_of_lt hhead, toNat_ofNat_of_lt htail]

theorem csrValue?_count_toNat : (s.csrValue? 0x08).map BitVec.toNat = some (s.count ||| s.space <<< 16) := by
  have hcount : s.count < 2 ^ 16 := (modDist_lt s.head s.tail (rbSize_pos hi)).trans_le (rbSize_le hi)
  change some (BitVec.ofNat 16 s.space ++ BitVec.ofNat 16 s.count).toNat = _
  rw [toNat_append_field, toNat_ofNat_of_lt hcount, toNat_ofNat_of_lt (space_lt hi)]

theorem csrValue?_sofcnt_toNat : (s.csrValue? 0x0B).map BitVec.toNat = some s.sofcnt := by
  have hperiod : 2 ^ s.cfg.sofShift ≤ 2 ^ 15 := Nat.pow_le_pow_right (by decide) (legal_facts hi.legal).ss
  have hticks : s.sofcnt < 2 ^ 16 := hi.sofcnt_lt.trans (by omega)
  change some (0#16 ++ BitVec.ofNat 16 s.sofcnt).toNat = _
  rw [toNat_zero_extended, toNat_ofNat_of_lt hticks]

end

end Machine

open Machine

/-! ## The statements -/

/-- Settles O47: a field that fits its bits reads back as itself; the parameters fit by R8, the rest by the invariant. -/
theorem csrValuesAreAssembledFromTheirFields : Obligations.CsrValuesAreAssembledFromTheirFields := by
  refine ⟨by decide, fun s hi => ?_⟩
  have hlegal := legal_facts hi.legal
  exact ⟨rfl, congrArg some (csrParam0_toNat hlegal), congrArg some (csrParam1_toNat hlegal),
    congrArg some (csrParam2_toNat hlegal), congrArg some (csrStatus_toNat s), csrValue?_format_toNat s,
    csrValue?_gain_toNat hi, csrValue?_pointers_toNat hi, csrValue?_count_toNat hi,
    congrArg some (toNat_zero_extended s.fbValue), rfl, csrValue?_sofcnt_toNat hi,
    congrArg some ((toNat_zero_extended s.pending).trans (pending_toNat s)),
    congrArg some (toNat_zero_extended s.ie), rfl⟩

/-- Settles O45: the row of opcode 0 has no operand, so every other bit is reserved. -/
theorem nopDoesNothing : Obligations.NopDoesNothing := by
  refine ⟨fun s => rfl, fun p => ?_, fun p w hw hop => ?_⟩
  · exact decode_eq_ok_iff.mpr (readsAs_word (i := .nop) rfl (by cases p <;> decide))
  · have hcode : opcode w = Instr.nop.opcodeBits := BitVec.eq_of_toNat_eq ((opcode_toNat w).trans hop)
    have hframed : ([] : List Byte).length = payloadLength w := by
      rw [payloadLength, hcode, if_neg (by decide)]
      rfl
    have hreserved : (w.setWidth 28) >>> 0 ≠ 0 := fun hzero =>
      hw (word_eq_of_parts hcode (BitVec.eq_nil _) hzero).symm
    rw [decode_eq_checkRow (i := .nop) hframed hcode (BitVec.eq_nil _) rfl]
    exact if_pos hreserved

/-- Settles O46: a register is read exactly at the mapped addresses, and every other address is reserved. -/
theorem csrReadAnswersTheRegister : Obligations.CsrReadAnswersTheRegister := by
  intro s a
  constructor
  · intro hmapped
    obtain ⟨v, hv⟩ := Option.isSome_iff_exists.mp ((csrValue?_isSome_iff s a).mpr hmapped)
    exact ⟨v, hv, exec_csrRead_of_some hv⟩
  · intro hreserved
    have hnone : s.csrValue? a = none := by
      rw [← Option.not_isSome_iff_eq_none, csrValue?_isSome_iff]
      omega
    rw [exec_csrRead_of_none hnone, raise_illegal]
    rfl

/-- Settles O48: the level of R313 under the new mask. -/
theorem setIeWritesTheEnables : Obligations.SetIeWritesTheEnables := fun s m =>
  ⟨_, exec_setIe m s, rfl, fun _ _ => rfl, irq_iff { s with ie := m }⟩

/-- Settles O49: bit by bit of the cleared pending bits. -/
theorem ackClearsThePendingBits : Obligations.AckClearsThePendingBits := by
  intro s m
  refine ⟨_, exec_ack m s, rfl, fun i hi => ?_⟩
  rw [clearPending_pend, BitVec.getLsbD_and, BitVec.getLsbD_not, decide_eq_true hi, Bool.true_and]

end Sys2Proof
end

section
/-! SUPPORT. The events and who writes what (60_exceptions.md R310 to R331), and the state after power-on reset
(70_reset_and_hazards.md R340): what a raise does to each event register, the event registers as what only grows across
every part of a command, the state each port's commands keep, and the reset state's registers as they read; then the
statements. -/

namespace Sys2Proof

namespace Machine

/-! ## One raise (60_exceptions.md R310 to R312) -/

theorem Event.code_lt (e : Event) : e.code < 8 := by cases e <;> decide

/-- The pending bit of an event is the one at its code (R310). -/
theorem eventBit_getLsbD (e : Event) (i : Nat) : e.bit.getLsbD i = (i == e.code) := by
  rw [Event.bit, ← BitVec.twoPow_eq, BitVec.getLsbD_twoPow, decide_eq_true (Event.code_lt e), Bool.true_and]
  exact decide_eq_decide.mpr eq_comm

/-- The counter of an event that counts by `n` on its own raises, and not at all on another event's. -/
theorem counterAfter_countedUp {own : Event} {n info : Nat} (hn : n = if own = .sat then info else 1) (e : Event)
    (cnt : BitVec 32) : CountedUp cnt (counterAfter e own info cnt) (if e = own then n else 0) := by
  by_cases he : e = own
  · subst he
    rw [if_pos rfl, counterAfter_same, hn]
    exact addSat32_toNat _ _
  · have hreg := cnt.isLt
    rw [if_neg he, counterAfter_ne he]
    change cnt.toNat = _
    omega

/-! ## Event registers that only grow (10_state.md R32, 60_exceptions.md R312) -/

/-- No counter has fallen and no pending bit was cleared from `s` to `t`. -/
structure EventsGrow (s t : State) : Prop where
  underrun  : s.cntUnderrun.toNat ≤ t.cntUnderrun.toNat
  overflow  : s.cntOverflow.toNat ≤ t.cntOverflow.toNat
  malformed : s.cntMalformed.toNat ≤ t.cntMalformed.toNat
  sat       : s.cntSat.toNat ≤ t.cntSat.toNat
  fblost    : s.cntFblost.toNat ≤ t.cntFblost.toNat
  pend      : ∀ j, s.pend.getLsbD j = true → t.pend.getLsbD j = true

namespace EventsGrow

theorem refl (s : State) : EventsGrow s s := ⟨le_rfl, le_rfl, le_rfl, le_rfl, le_rfl, fun _ => id⟩

theorem trans {s t u : State} (h : EventsGrow s t) (h' : EventsGrow t u) : EventsGrow s u where
  underrun := h.underrun.trans h'.underrun
  overflow := h.overflow.trans h'.overflow
  malformed := h.malformed.trans h'.malformed
  sat := h.sat.trans h'.sat
  fblost := h.fblost.trans h'.fblost
  pend := fun j hj => h'.pend j (h.pend j hj)

/-- The one operation that writes the event registers on the way through a command (R311). -/
theorem raise {s t : State} (h : EventsGrow s t) (e : Event) (info : Nat) : EventsGrow s (raise e info t) where
  underrun := h.underrun.trans (counterAfter_ge _ _ _ _)
  overflow := h.overflow.trans (counterAfter_ge _ _ _ _)
  malformed := h.malformed.trans (counterAfter_ge _ _ _ _)
  sat := h.sat.trans (counterAfter_ge _ _ _ _)
  fblost := h.fblost.trans (counterAfter_ge _ _ _ _)
  pend := fun j hj => by rw [raise_pend, BitVec.getLsbD_or, h.pend j hj, Bool.true_or]

end EventsGrow

theorem trySend_eventsGrow (s : State) : EventsGrow s (trySend s) := by
  have h := EventsGrow.refl s
  unfold trySend
  split
  · exact { h with }
  · exact h

theorem putWith_eventsGrow (k : Nat) (len : BitVec 16) (b : List Byte) (s : State) :
    EventsGrow s (putWith k len b s) := by
  have hview : EventsGrow s (refreshTailPv k s) := { EventsGrow.refl s with }
  have hready : EventsGrow s (putReady k len s) := by
    rw [putReady_eq]
    split
    · exact hview.raise _ _
    · exact hview
  rw [putWith_eq_putStore]
  unfold putStore
  split
  · exact { hready.raise .overflow _ with }
  · exact { hready with }

/-- Of a tick's parts only the lost report raises (44_feedback.md R224, R226). -/
theorem sofTick_eventsGrow (s : State) : EventsGrow s (sofTick s) := by
  have hcount : EventsGrow s (countTick s) := { EventsGrow.refl s with }
  have hlost : EventsGrow s (lostReport (countTick s)) := by
    unfold lostReport
    split
    · exact hcount.raise _ _
    · exact hcount
  unfold sofTick
  refine EventsGrow.trans ?_ (trySend_eventsGrow _)
  split
  · exact { hlost with }
  · exact hcount

/-- A PUMP raises SAT and STATECHG when it runs and UNDERRUN when it does not (45_pump_control.md R252 to R255). -/
theorem pumpWith_eventsGrow (k : Nat) (h : BitVec 1) (s : State) : EventsGrow s (pumpWith k h s) := by
  have hview : EventsGrow s (refreshHeadCv k s) := { EventsGrow.refl s with }
  unfold pumpWith pumpNow
  split
  case isTrue =>
    unfold pumpShort
    split
    · exact hview.raise _ _
    · exact hview
  case isFalse =>
    have hdata : EventsGrow s (pumpData h (refreshHeadCv k s)) := { hview with }
    have hsat : EventsGrow s (pumpSat (refreshHeadCv k s).pumpSats (pumpData h (refreshHeadCv k s))) := by
      unfold pumpSat
      split
      · exact hdata.raise _ _
      · exact hdata
    unfold pumpRun pumpFill
    split
    case isTrue =>
      split
      · exact { hsat.raise .statechg 0 with }
      · exact { hsat with }
    case isFalse => exact hsat

theorem configureStream_eventsGrow (f : Fmt) (r : Rate) (s : State) : EventsGrow s (configureStream f r s) := by
  have h := EventsGrow.refl s
  unfold configureStream
  split
  · exact { h.raise .statechg 0 with }
  · exact { h with }
  · exact h.raise _ _
  · exact h.raise _ _

theorem configureStop_eventsGrow (s : State) : EventsGrow s (configureStop s) := by
  have h := EventsGrow.refl s
  unfold configureStop
  split
  · exact h
  · exact { h.raise .statechg 0 with }
  · exact { h.raise .statechg 0 with }
  · exact h

/-- Every command but ACK only adds to the event registers. -/
theorem exec_eventsGrow {i : Instr} {s t : State} (hack : ∀ m, i ≠ .ack m) (h : exec i s = .next t) :
    EventsGrow s t := by
  have hcase := exec_next_cases h
  have hsame := EventsGrow.refl s
  cases i with
  | nop => exact hcase ▸ hsame
  | put len b => exact hcase ▸ putWith_eventsGrow _ len b s
  | sof => exact hcase ▸ sofTick_eventsGrow s
  | fbDone => exact hcase ▸ { trySend_eventsGrow { s with epFree := true } with }
  | configure f r =>
    rw [show t = _ from hcase]
    split
    · exact configureStop_eventsGrow s
    · exact configureStream_eventsGrow f r s
  | setMute m => exact hcase ▸ { hsame with }
  | setAtten x => exact hcase ▸ { hsame with }
  | pump half =>
    rw [show t = _ from hcase]
    split
    · exact hsame
    · exact pumpWith_eventsGrow _ half s
  | outDone =>
    rw [show t = _ from hcase]
    split
    · exact { hsame.raise .statechg 0 with }
    · exact hsame
  | csrRead a =>
    rw [show t = _ from hcase]
    split
    · exact { hsame with }
    · exact { hsame.raise .illegal a.toNat with }
  | setIe m => exact hcase ▸ { hsame with }
  | ack m => exact absurd rfl (hack m)

/-! ## What each port's commands leave to the other ports (60_exceptions.md R331) -/

/-- The command is no stream set-up in this state: a CONFIGURE stops the stream, or is refused while one plays
(45_pump_control.md R261, R263). -/
abbrev OutsideSetUp (i : Instr) (s : State) : Prop :=
  ∀ f r, i = .configure f r → f = .none ∨ s.pst = .running ∨ s.pst = .drain

/-- The registers of the producer's side are unchanged. -/
abbrev SameProducerRegs (s t : State) : Prop :=
  t.head = s.head ∧ t.tailPv = s.tailPv ∧ t.delta = s.delta ∧ SameReport s t

/-- The registers of the consumer's side are unchanged. -/
abbrev SameConsumerRegs (s t : State) : Prop := t.tail = s.tail ∧ t.headCv = s.headCv ∧ SameFilter s t

/-- A CONFIGURE outside a set-up writes neither side's registers: it stops the stream or raises CFGREJ. -/
theorem configure_outside_setUp_regs {f : Fmt} {r : Rate} {s t : State} (hset : OutsideSetUp (.configure f r) s)
    (h : exec (.configure f r) s = .next t) : SameProducerRegs s t ∧ SameConsumerRegs s t := by
  rw [show t = _ from exec_next_cases h]
  by_cases hf : f = .none
  · rw [if_pos hf]
    simp [SameProducerRegs, SameReport, SameConsumerRegs, SameFilter]
  · rw [if_neg hf, configureStream_of_playing ((hset f r rfl).resolve_left hf)]
    simp [SameProducerRegs, SameReport, SameConsumerRegs, SameFilter]

section
variable {i : Instr} {s t : State} (h : exec i s = .next t)
include h

/-- Only a PUT writes the ring storage (10_state.md R22). -/
theorem exec_mem_of_not_producer (hport : .producer ∉ i.ports) : t.mem = s.mem := by
  cases i with
  | put => simp [Instr.ports] at hport
  | pump => rw [show t = _ from exec_next_cases h]; split <;> simp
  | _ =>
    obtain ⟨-, -, hmem, -⟩ := exec_sameMemories (by simp) (by simp) h
    exact hmem

/-- Only a PUMP writes the output buffer (10_state.md R35). -/
theorem exec_outBuf_of_not_consumer (hport : .consumer ∉ i.ports) : t.outBuf = s.outBuf := by
  cases i with
  | put => rw [show t = _ from exec_next_cases h]; exact putWith_outBuf _ _ _ _
  | pump => simp [Instr.ports] at hport
  | _ =>
    obtain ⟨-, -, -, hout⟩ := exec_sameMemories (by simp) (by simp) h
    exact hout

theorem exec_producerRegs_of_not_producer (hport : .producer ∉ i.ports) (hset : OutsideSetUp i s) :
    SameProducerRegs s t := by
  have hcase := exec_next_cases h
  cases i with
  | nop | put | sof | fbDone => simp [Instr.ports] at hport
  | configure f r => exact (configure_outside_setUp_regs hset h).1
  | pump | outDone | csrRead => rw [show t = _ from hcase]; split <;> simp [SameProducerRegs, SameReport]
  | _ => rw [show t = _ from hcase]; simp [SameProducerRegs, SameReport]

theorem exec_consumerRegs_of_not_consumer (hport : .consumer ∉ i.ports) (hset : OutsideSetUp i s) :
    SameConsumerRegs s t := by
  have hcase := exec_next_cases h
  cases i with
  | nop | pump | outDone => simp [Instr.ports] at hport
  | configure f r => exact (configure_outside_setUp_regs hset h).2
  | csrRead => rw [show t = _ from hcase]; split <;> simp [SameConsumerRegs, SameFilter]
  | _ => rw [show t = _ from hcase]; simp [SameConsumerRegs, SameFilter]

theorem exec_controlRegs_of_not_control (hport : .control ∉ i.ports) :
    t.rate = s.rate ∧ t.mute = s.mute ∧ t.atten = s.atten ∧ t.ie = s.ie := by
  have hcase := exec_next_cases h
  cases i with
  | put | sof | fbDone => rw [show t = _ from hcase]; simp
  | pump | outDone => rw [show t = _ from hcase]; split <;> simp
  | _ => simp [Instr.ports] at hport

/-- The producer's own commands leave the stream's format and pump state alone. -/
theorem exec_stream_of_producer (hport : i.ports = [.producer]) :
    t.fmt = s.fmt ∧ t.pst = s.pst ∧ t.filled = s.filled ∧ t.outEn = s.outEn := by
  have hcase := exec_next_cases h
  cases i with
  | put | sof | fbDone => rw [show t = _ from hcase]; simp
  | _ => simp [Instr.ports] at hport

end

/-! ## The registers that R340 names (70_reset_and_hazards.md) -/

theorem csrStatus_getLsbD_irq (s : State) : s.csrStatus.getLsbD 7 = s.irq := by
  simp only [State.csrStatus, BitVec.getLsbD_append]
  simp

/-- An empty ring reads as count 0 and as much space as the ring has. -/
theorem resetOf_rbcount {c : Config} (hc : c.legal = true) :
    (State.resetOf c).csrValue? 0x08 = some (BitVec.ofNat 32 ((c.rbSize - 1) * 65536)) := by
  have hsize := rbSize_le (resetOf_inv hc)
  have hspace : (State.resetOf c).space = c.rbSize - 1 := by simp [State.space, State.count, State.resetOf]
  have hcount : (State.resetOf c).count = 0 := modDist_self _ _
  have hread := csrValue?_count_toNat (resetOf_inv hc)
  rw [hspace, hcount, Nat.zero_or, Nat.shiftLeft_eq] at hread
  obtain ⟨v, hv, hval⟩ := Option.map_eq_some_iff.mp hread
  rw [hv, ← hval, BitVec.ofNat_toNat, BitVec.setWidth_eq]

theorem resetOf_fbval {c : Config} (hc : c.legal = true) :
    (State.resetOf c).csrValue? 0x09 = some (BitVec.ofNat 32 c.normal.nom) := by
  have hnom : (BitVec.ofNat 24 c.normal.nom).toNat = c.normal.nom := nom_register (legal_facts hc) .normal
  have hsmall : c.normal.nom < 2 ^ 24 := hnom ▸ BitVec.isLt _
  refine congrArg some (BitVec.eq_of_toNat_eq ?_)
  rw [toNat_ofNat_of_lt (hsmall.trans (by decide))]
  exact (toNat_zero_extended _).trans hnom

/-- Nothing pends and no event is enabled. -/
theorem resetOf_irq (c : Config) : (State.resetOf c).irq = false := by
  rw [Bool.eq_false_iff, ne_eq, irq_iff]
  simp [State.resetOf]

/-- Out of reset only the endpoint's flag is up in STATUS. -/
theorem resetOf_status (c : Config) : (State.resetOf c).csrValue? 0x04 = some 0x00000040 := by
  change some (0#24 ++ BitVec.ofBool (State.resetOf c).irq ++ BitVec.ofBool true ++ BitVec.ofBool false
    ++ BitVec.ofBool false ++ 0#2 ++ 0#2) = _
  rw [resetOf_irq]
  rfl

theorem resetOf_resetState {c : Config} (hc : c.legal = true) : ResetState c (State.resetOf c) where
  cfg := rfl
  mem := rfl
  pointers := ⟨rfl, rfl, rfl, rfl⟩
  format := ⟨rfl, rfl⟩
  backlog := rfl
  errors := rfl
  gain := ⟨rfl, rfl⟩
  pump := ⟨rfl, rfl, rfl⟩
  feedback := ⟨rfl, rfl, nom_register (legal_facts hc) .normal, rfl, rfl⟩
  events := ⟨rfl, rfl⟩
  counters := ⟨rfl, rfl, rfl, rfl, rfl⟩
  outBuf := rfl
  irq := resetOf_irq c
  status := resetOf_status c
  rbcount := resetOf_rbcount hc
  fbval := resetOf_fbval hc

/-- A power-on reset during operation gives the same registers: what it keeps is not state of the block (R342). -/
theorem powerOn_resetState {s : State} (hc : s.cfg.legal = true) : ResetState s.cfg (powerOn s) :=
  { resetOf_resetState hc with }

end Machine

open Machine

/-! ## The statements -/

/-- Settles O52: every command but ACK only adds to the event registers, and ACK writes no counter. -/
theorem countersNeverFall : Obligations.CountersNeverFall := by
  intro i s t h
  by_cases hack : ∃ m, i = .ack m
  · obtain ⟨m, rfl⟩ := hack
    rw [exec_ack, Host.Outcome.next.injEq] at h
    subst h
    exact ⟨le_rfl, le_rfl, le_rfl, le_rfl, le_rfl, fun hother => absurd rfl (hother m)⟩
  · have hgrow := exec_eventsGrow (not_exists.mp hack) h
    exact ⟨hgrow.underrun, hgrow.overflow, hgrow.malformed, hgrow.sat, hgrow.fblost, fun _ j _ => hgrow.pend j⟩

/-- Settles O53, a lemma for each port's share of the state. -/
theorem eachPortWritesItsOwnState : Obligations.EachPortWritesItsOwnState := fun _ _ _ h =>
  ⟨exec_mem_of_not_producer h, exec_producerRegs_of_not_producer h, exec_outBuf_of_not_consumer h,
    exec_consumerRegs_of_not_consumer h, exec_controlRegs_of_not_control h, exec_stream_of_producer h⟩

/-- Settles O50: the level bit by bit, and its place in STATUS. -/
theorem irqIsTheEnabledPendingLevel : Obligations.IrqIsTheEnabledPendingLevel := fun s =>
  ⟨irq_iff s, s.csrStatus, rfl, csrStatus_getLsbD_irq s⟩

/-- Settles O51: the event's bit, and each counter by its own event. -/
theorem raiseRecordsTheEvent : Obligations.RaiseRecordsTheEvent := by
  intro e n s
  refine ⟨fun i _ => ?_, counterAfter_countedUp rfl e _, counterAfter_countedUp rfl e _,
    counterAfter_countedUp rfl e _, counterAfter_countedUp rfl e _, counterAfter_countedUp rfl e _, rfl⟩
  rw [raise_pend, BitVec.getLsbD_or, eventBit_getLsbD]

/-- Settles O10: the registers of the reset state, and R38 as a part of its invariant. -/
theorem powerOnResetState : Obligations.PowerOnResetState := by
  intro c hc
  refine ⟨⟨resetOf_resetState hc, (resetOf_inv hc).r38⟩, fun s rest hcfg hinput => ?_⟩
  subst hcfg
  exact ⟨_, step_of_powerOnReset hc hinput, powerOn_resetState (s := { s with input := rest }) hc,
    (powerOn_inv (s := { s with input := rest }) hc).r38, rfl, rfl⟩

/-- Settles O11, as the first state of every run. -/
theorem resetMeetsTheInvariant : Obligations.ResetMeetsTheInvariant := fun _ => resetOf_inv

end Sys2Proof
end
